-- ==== Sys2Proof/Word.lean ====
section
/-! DEFINITION. The words of the block: an 8-bit byte, the 24-bit command word and the 15-bit reply fields
(00_scope.md R9). Every value is unsigned (R13). -/

namespace Sys2Proof

/-- One byte of a port, a buffer or a frame (R9). -/
abbrev Byte := BitVec 8

/-- A host command word on `cmd`, written `0xBBAAxO` (R70). -/
abbrev CmdWord := BitVec 24

/-- The width of `unpack`, REPLY_ADDR and REPLY_REG (R9, 90_conflicts.md C3). -/
abbrev Field15 := BitVec 15

end Sys2Proof
end

