-- ==== Sys2Proof/Config.lean ====
section
/-! DEFINITION. What an implementation of the block fixes (00_scope.md R6 to R8 and R1). -/

namespace Sys2Proof

/-- The block's parameters. DESIGN CHOICE: they stand in `State` so that a statement about every state is a
statement about every legal size (log entry 1); no step writes them. -/
structure Params where
  /-- PAYLOAD_MAX, the capacity of PBUF in bytes (R6). -/
  payloadMax : Nat
  /-- OUT_MAX, the capacity of OBUF in bytes (R7). -/
  outMax : Nat
  /-- whether the optional framer is built in (R1, the opening of 41_framer.md). -/
  framer : Bool
deriving DecidableEq, Repr

/-- The bounds the spec sets: `PAYLOAD_MAX >= 4` (R6) and `OUT_MAX >= 1` (R7). -/
abbrev Params.Legal (p : Params) : Prop := 4 ≤ p.payloadMax ∧ 1 ≤ p.outMax

/-- HOST_MISMATCH_POLICY, a parameter of the host and not of the block (R8). -/
inductive MismatchPolicy where
  /-- report success and copy nothing -/
  | source
  /-- issue SCAN_START again and keep waiting -/
  | rescan
  /-- surface an error -/
  | error
deriving DecidableEq, Repr

/-- Free value: the byte at an index of a buffer that reset leaves unspecified, `any value` (R33, D36). `draw` numbers
the buffers so left; nothing constrains the byte (log entry 5). -/
opaque Config.resetByte (draw index : Nat) : Byte

end Sys2Proof
end

