-- ==== Sys2Proof/Syntax.lean ====
section
/-! DEFINITION. The steps of the block: one constructor of `Instr` for each row of spec/opcode_table.json, the
raw signals they are read from, and the events the outside agents present. -/

namespace Sys2Proof

/-- SST, the scanner state (R21). -/
inductive Sst where
  /-- 0: no scan armed -/
  | idle
  /-- 1: seeking start marker -/
  | s0
  /-- 2: seeking reply tag -/
  | s1
  /-- 3: accumulating payload -/
  | s2
  /-- 4: a reply frame was completed -/
  | done
  /-- 5: a transport read error ended the scan -/
  | abort
  /-- 6: the end marker came with fewer than 4 payload bytes -/
  | short
  /-- 7: a payload byte came while PBUF was full -/
  | ovf
deriving DecidableEq, Repr

/-- CERR, the completion code of the last host command (R28). Codes 5 to 15 are never produced (R201). -/
inductive CErr where
  /-- 0: the command completed -/
  | ok
  /-- 1: reserved OP, or RSV not 0 -/
  | illegal
  /-- 2: SCAN_START while scanning -/
  | busy
  /-- 3: OUT_PUSH with OBUF full -/
  | outOvf
  /-- 4: the transport reported a write error -/
  | txErr
deriving DecidableEq, Repr

/-- One row of the opcode table. Command rows keep both operand bytes `a` (A, bits 15:8) and `b` (B, bits 23:16),
also where the command ignores them (R74, log entry 11). -/
inductive Instr where
  /-- NOP (R105) -/
  | nop (a b : Byte)
  /-- OUT_CLEAR (R121) -/
  | outClear (a b : Byte)
  /-- OUT_PUSH, A = the byte to append (R122) -/
  | outPush (a b : Byte)
  /-- FRAME_CONFIG (R123) -/
  | frameConfig (a b : Byte)
  /-- FRAME_WRITE, A = the target address (R124) -/
  | frameWrite (a b : Byte)
  /-- FRAME_READ, A = the target address (R125) -/
  | frameRead (a b : Byte)
  /-- SCAN_START (R150) -/
  | scanStart (a b : Byte)
  /-- PACK, A = the byte (R106) -/
  | pack (a b : Byte)
  /-- UNPACK, A = low7, B = high7 (R107) -/
  | unpack (a b : Byte)
  /-- RESERVED_OP_9 (R72) -/
  | reservedOp9 (a b : Byte)
  /-- RESERVED_OP_A (R72) -/
  | reservedOpA (a b : Byte)
  /-- RESERVED_OP_B (R72) -/
  | reservedOpB (a b : Byte)
  /-- RESERVED_OP_C (R72) -/
  | reservedOpC (a b : Byte)
  /-- RESERVED_OP_D (R72) -/
  | reservedOpD (a b : Byte)
  /-- RESERVED_OP_E (R72) -/
  | reservedOpE (a b : Byte)
  /-- RESERVED_OP_F (R72) -/
  | reservedOpF (a b : Byte)
  /-- RESERVED_RSV: any word whose RSV field is not 0, whatever its OP (R73) -/
  | reservedRsv (rsv op : BitVec 4) (a b : Byte)
  /-- FRAME_I2C_CONFIG, sent by the framer (R76) -/
  | frameI2cConfig
  /-- FRAME_REQ_WRITE, sent by the framer (R77) -/
  | frameReqWrite (addr : Byte) (out : List Byte)
  /-- FRAME_REQ_READ, sent by the framer (R78) -/
  | frameReqRead (addr : Byte) (out : List Byte)
  /-- FRAME_REPLY, sent by the far end: address, register and data bytes (R79) -/
  | frameReply (addr reg : BitVec 14) (data : List Byte)
  /-- FRAME_REPORT_FIRMWARE, sent by the far end: the bytes after the tag are not in the source (R82, N16) -/
  | frameReportFirmware (rest : List Byte)
  /-- RX_S0_START: 0xF0 in S0 (R152) -/
  | rxS0Start
  /-- RX_S0_DISCARD: any other byte in S0 (R153) -/
  | rxS0Discard (byte : Byte)
  /-- RX_S1_TAG: 0x77 in S1 (R154) -/
  | rxS1Tag
  /-- RX_S1_DISCARD: any other byte in S1 (R155) -/
  | rxS1Discard (byte : Byte)
  /-- RX_S2_END: 0xF7 in S2 with PLEN at least 4 (R156) -/
  | rxS2End
  /-- RX_S2_END_SHORT: 0xF7 in S2 with PLEN below 4 (R157) -/
  | rxS2EndShort
  /-- RX_S2_APPEND: any other byte in S2 with room in PBUF (R158) -/
  | rxS2Append (byte : Byte)
  /-- RX_S2_OVERFLOW: any other byte in S2 with PBUF full (R159) -/
  | rxS2Overflow (byte : Byte)
  /-- RX_NOT_ACCEPTED: any byte while not scanning (R151) -/
  | rxNotAccepted (byte : Byte)
  /-- RX_ERR: a transport read error (R160) -/
  | rxErr
  /-- RESET (R240). `waiting` is the command word that reset finds waiting on the transport, with the number of its
  frame's bytes that have already left, or a coinciding command word with 0 (R205(a), log entry 9). -/
  | reset (waiting : Option (CmdWord × Nat))
deriving DecidableEq, Repr

/-- The raw bits of one step, by the port they come on (R10). -/
inductive Signal where
  /-- a command word on `cmd` -/
  | cmd (w : CmdWord)
  /-- the byte the transport offers on `rx_byte` -/
  | rxByte (byte : Byte)
  /-- a transport read error -/
  | rxErr
  /-- a reset, with what it finds waiting (see `Instr.reset`) -/
  | reset (waiting : Option (CmdWord × Nat))
  /-- a host command, read by the whole frame it sends on `tx_byte` (log entry 6) -/
  | txFrame (bytes : List Byte)
  /-- bytes that the far end's side of the transport delivers before the offer of a byte (R34(a), log entry 6) -/
  | line (bytes : List Byte)
deriving DecidableEq, Repr

/-- One event to come, and with it which agent moves (log entry 2). Each is one of R11's four kinds: `cmd` and
`frame` are (a), `offer` and `deliver` are (b), then (c) and (d). -/
inductive Event where
  /-- the host presents a command word -/
  | cmd (w : CmdWord)
  /-- the transport offers its oldest pending byte on `rx_byte` -/
  | offer
  /-- the transport reports a read error -/
  | rxErr
  /-- the platform resets the block -/
  | reset (waiting : Option (CmdWord × Nat))
  /-- the host presents a command word, and where it sends a frame the step is read as that frame (log entry 6) -/
  | frame (w : CmdWord)
  /-- bytes arrive at the transport from the far end, and it offers its oldest pending byte -/
  | deliver (bytes : List Byte)
deriving DecidableEq, Repr

/-- What the transport answers to one frame write (R120). A frame write it has not answered waits. -/
inductive TxAnswer where
  /-- all bytes of the frame are taken -/
  | accept
  /-- a write error, with the number of bytes taken before it; a number above the frame's length means all of it -/
  | error (taken : Nat)
deriving DecidableEq, Repr

/-- What the decoding of an inbound byte depends on (R87): SST, PLEN and PAYLOAD_MAX. -/
structure ScanView where
  /-- SST -/
  sst : Sst
  /-- PLEN -/
  plen : Nat
  /-- PAYLOAD_MAX -/
  payloadMax : Nat
deriving DecidableEq, Repr

end Sys2Proof
end

