-- ==== Sys2Proof/Machine/Operands.lean ====
section
/-! DEFINITION. The wire constants (R75), the codec functions (R100 to R102), packed pairs (R53) and the frame
layouts (R76 to R79). -/

namespace Sys2Proof

/-- START marker (R75). -/
def startMarker : Byte := 0xF0#8

/-- END marker (R75). -/
def endMarker : Byte := 0xF7#8

/-- I2C_CONFIG, the configuration frame's tag (R75). -/
def i2cConfig : Byte := 0x78#8

/-- I2C_REQUEST, the request frame's tag (R75). -/
def i2cRequest : Byte := 0x76#8

/-- I2C_REPLY, the reply frame's tag (R75). -/
def i2cReply : Byte := 0x77#8

/-- REPORT_FIRMWARE, reserved and never sent by the block (R75, R82). -/
def reportFirmware : Byte := 0x79#8

/-- The mode byte of a write request (R75, R77). -/
def writeMode : Byte := 0x00#8

/-- The read-flag byte `1<<3`, the mode byte of a read request (R75, R78). -/
def readMode : Byte := 0x08#8

/-- low7 of `pack` (R100). -/
def packLow (b : Byte) : Byte := b &&& 0x7F#8

/-- high7 of `pack` (R100). -/
def packHigh (b : Byte) : Byte := (b >>> 7) &&& 0x7F#8

/-- `unpack(l, h)`, 15 bits, with unchecked inputs (R101, 90_conflicts.md C3). -/
def unpack (l h : Byte) : Field15 := l.setWidth 15 ||| (h.setWidth 15 <<< 7)

/-- `unpack8(l, h)`, the low 8 bits of `unpack` (R102). -/
def unpack8 (l h : Byte) : Byte := (unpack l h).extractLsb' 0 8

/-- Bytes as packed pairs, each low unit first (R53). -/
def packPairs : List Byte → List Byte
  | [] => []
  | b :: rest => packLow b :: packHigh b :: packPairs rest

/-- The configuration frame (R76). -/
def configFrame : List Byte := [startMarker, i2cConfig, 0x00#8, 0x00#8, endMarker]

/-- A request frame: the raw address, the mode byte, the packed outgoing bytes (R77, R78, 90_conflicts.md C4). -/
def requestFrame (mode addr : Byte) (out : List Byte) : List Byte :=
  startMarker :: i2cRequest :: addr :: mode :: (packPairs out ++ [endMarker])

/-- The two 7-bit units of a 14-bit reply field, low unit first (R54, R79). -/
def fieldUnits (v : BitVec 14) : List Byte :=
  [(v.extractLsb' 0 7).setWidth 8, (v.extractLsb' 7 7).setWidth 8]

/-- The payload of a well-formed reply: address, register, packed data (R79). -/
def replyPayload (addr reg : BitVec 14) (data : List Byte) : List Byte :=
  fieldUnits addr ++ (fieldUnits reg ++ packPairs data)

/-- The reply frame as a well-formed sender produces it (R79). -/
def replyFrame (addr reg : BitVec 14) (data : List Byte) : List Byte :=
  startMarker :: i2cReply :: (replyPayload addr reg data ++ [endMarker])

/-- A frame with the reserved tag; what follows the tag is not in the source (R82, N16). -/
def firmwareFrame (rest : List Byte) : List Byte := startMarker :: reportFirmware :: rest

end Sys2Proof
end

