-- ==== Sys2Proof/WellFormed.lean ====
section
/-! DEFINITION. Which terms of `Instr` a signal can be read as: the checks the opcode table puts on operands. -/

namespace Sys2Proof

/-- The operand checks of the opcode table: RSV is not 0 in RESERVED_RSV (R73), and the byte of a discard, append
or overflow row is not the byte an earlier row of the same state takes (R87). -/
def Instr.wellFormed : Instr → Bool
  | .nop _ _ => true
  | .outClear _ _ => true
  | .outPush _ _ => true
  | .frameConfig _ _ => true
  | .frameWrite _ _ => true
  | .frameRead _ _ => true
  | .scanStart _ _ => true
  | .pack _ _ => true
  | .unpack _ _ => true
  | .reservedOp9 _ _ => true
  | .reservedOpA _ _ => true
  | .reservedOpB _ _ => true
  | .reservedOpC _ _ => true
  | .reservedOpD _ _ => true
  | .reservedOpE _ _ => true
  | .reservedOpF _ _ => true
  | .reservedRsv rsv _ _ _ => rsv != 0#4
  | .frameI2cConfig => true
  | .frameReqWrite _ _ => true
  | .frameReqRead _ _ => true
  | .frameReply _ _ _ => true
  | .frameReportFirmware _ => true
  | .rxS0Start => true
  | .rxS0Discard byte => byte != startMarker
  | .rxS1Tag => true
  | .rxS1Discard byte => byte != i2cReply
  | .rxS2End => true
  | .rxS2EndShort => true
  | .rxS2Append byte => byte != endMarker
  | .rxS2Overflow byte => byte != endMarker
  | .rxNotAccepted _ => true
  | .rxErr => true
  | .reset _ => true

end Sys2Proof
end

