-- ==== Sys2Proof/Decode.lean ====
section
/-! DEFINITION. The decoder, total on every signal, and the encoder, both from 30_encoding.md. -/

namespace Sys2Proof

/-- Why bytes are no frame of the opcode table. -/
inductive DecodeError where
  /-- fewer bytes than any frame has, or no start marker first (R83) -/
  | noStartMarker
  /-- the tag after the start marker is none this direction knows (R75) -/
  | unknownTag
  /-- the configuration frame's fixed bytes differ (R76) -/
  | badConfigBody
  /-- the mode byte is neither 0x00 nor 0x08 (R77, R78) -/
  | badMode
  /-- the bytes after the header are no packed pairs ended by the end marker (R77 to R79) -/
  | badPairs
  /-- an address or register unit of a reply has bit 7 set (R79) -/
  | badUnit
deriving DecidableEq, Repr

/-- A command word with the given B, A, RSV and OP (R70). -/
def cmdWord (b a : Byte) (rsv op : BitVec 4) : CmdWord := (b ++ a ++ rsv ++ op).setWidth 24

/-- The operation a legal OP selects, with the operand bytes A and B (R71, R72). -/
def decodeOp (op : BitVec 4) (a b : Byte) : Instr :=
  match op.toNat with
  | 0 => .nop a b
  | 1 => .outClear a b
  | 2 => .outPush a b
  | 3 => .frameConfig a b
  | 4 => .frameWrite a b
  | 5 => .frameRead a b
  | 6 => .scanStart a b
  | 7 => .pack a b
  | 8 => .unpack a b
  | 9 => .reservedOp9 a b
  | 10 => .reservedOpA a b
  | 11 => .reservedOpB a b
  | 12 => .reservedOpC a b
  | 13 => .reservedOpD a b
  | 14 => .reservedOpE a b
  | _ => .reservedOpF a b

/-- Decode a command word: RSV is checked before OP (R70 to R73, R204). -/
def decodeCmd (w : CmdWord) : Instr :=
  let op := w.extractLsb' 0 4
  let rsv := w.extractLsb' 4 4
  let a := w.extractLsb' 8 8
  let b := w.extractLsb' 16 8
  if rsv = 0#4 then decodeOp op a b else .reservedRsv rsv op a b

/-- Decode an inbound byte by the scanner's state: the complete table of R87. -/
def decodeRx (v : ScanView) (byte : Byte) : Instr :=
  match v.sst with
  | .s0 => if byte = startMarker then .rxS0Start else .rxS0Discard byte
  | .s1 => if byte = i2cReply then .rxS1Tag else .rxS1Discard byte
  | .s2 =>
    if byte = endMarker then (if 4 ≤ v.plen then .rxS2End else .rxS2EndShort)
    else if v.plen < v.payloadMax then .rxS2Append byte
    else .rxS2Overflow byte
  | .idle => .rxNotAccepted byte
  | .done => .rxNotAccepted byte
  | .abort => .rxNotAccepted byte
  | .short => .rxNotAccepted byte
  | .ovf => .rxNotAccepted byte

/-- The bytes of packed pairs ended by the end marker, where every unit is what `pack` can give (R77 to R79). -/
def readPairs : List Byte → Option (List Byte)
  | [] => none
  | [e] => if e = endMarker then some [] else none
  | l :: h :: rest =>
    if l < 0x80#8 ∧ h < 0x02#8 then (readPairs rest).map (unpack8 l h :: ·) else none

/-- Read a frame given to the framer to send (R76 to R78). -/
def decodeTxFrame : List Byte → Except DecodeError Instr
  | start :: tag :: body =>
    if start ≠ startMarker then .error .noStartMarker
    else if tag = i2cConfig then
      (if body = [0x00#8, 0x00#8, endMarker] then .ok .frameI2cConfig else .error .badConfigBody)
    else if tag = i2cRequest then
      match body with
      | addr :: mode :: pairs =>
        match readPairs pairs with
        | some out =>
          if mode = writeMode then .ok (.frameReqWrite addr out)
          else if mode = readMode then .ok (.frameReqRead addr out)
          else .error .badMode
        | none => .error .badPairs
      | _ => .error .badPairs
    else .error .unknownTag
  | _ => .error .noStartMarker

/-- Read bytes that arrive from the far end as one of its frames (R79, R82). -/
def decodeLine : List Byte → Except DecodeError Instr
  | start :: tag :: body =>
    if start ≠ startMarker then .error .noStartMarker
    else if tag = reportFirmware then .ok (.frameReportFirmware body)
    else if tag = i2cReply then
      match body with
      | a0 :: a1 :: r0 :: r1 :: pairs =>
        if a0 < 0x80#8 ∧ a1 < 0x80#8 ∧ r0 < 0x80#8 ∧ r1 < 0x80#8 then
          match readPairs pairs with
          | some data => .ok (.frameReply ((unpack a0 a1).setWidth 14) ((unpack r0 r1).setWidth 14) data)
          | none => .error .badPairs
        else .error .badUnit
      | _ => .error .badPairs
    else .error .unknownTag
  | _ => .error .noStartMarker

/-- Decode one signal in the scanner's present state. -/
def decode (v : ScanView) : Signal → Except DecodeError Instr
  | .cmd w => .ok (decodeCmd w)
  | .rxByte byte => .ok (decodeRx v byte)
  | .rxErr => .ok .rxErr
  | .reset waiting => .ok (.reset waiting)
  | .txFrame bytes => decodeTxFrame bytes
  | .line bytes => decodeLine bytes

/-- The signal each row is read from (30_encoding.md). -/
def encode : Instr → Signal
  | .nop a b => .cmd (cmdWord b a 0x0#4 0x0#4)
  | .outClear a b => .cmd (cmdWord b a 0x0#4 0x1#4)
  | .outPush a b => .cmd (cmdWord b a 0x0#4 0x2#4)
  | .frameConfig a b => .cmd (cmdWord b a 0x0#4 0x3#4)
  | .frameWrite a b => .cmd (cmdWord b a 0x0#4 0x4#4)
  | .frameRead a b => .cmd (cmdWord b a 0x0#4 0x5#4)
  | .scanStart a b => .cmd (cmdWord b a 0x0#4 0x6#4)
  | .pack a b => .cmd (cmdWord b a 0x0#4 0x7#4)
  | .unpack a b => .cmd (cmdWord b a 0x0#4 0x8#4)
  | .reservedOp9 a b => .cmd (cmdWord b a 0x0#4 0x9#4)
  | .reservedOpA a b => .cmd (cmdWord b a 0x0#4 0xA#4)
  | .reservedOpB a b => .cmd (cmdWord b a 0x0#4 0xB#4)
  | .reservedOpC a b => .cmd (cmdWord b a 0x0#4 0xC#4)
  | .reservedOpD a b => .cmd (cmdWord b a 0x0#4 0xD#4)
  | .reservedOpE a b => .cmd (cmdWord b a 0x0#4 0xE#4)
  | .reservedOpF a b => .cmd (cmdWord b a 0x0#4 0xF#4)
  | .reservedRsv rsv op a b => .cmd (cmdWord b a rsv op)
  | .frameI2cConfig => .txFrame configFrame
  | .frameReqWrite addr out => .txFrame (requestFrame writeMode addr out)
  | .frameReqRead addr out => .txFrame (requestFrame readMode addr out)
  | .frameReply addr reg data => .line (replyFrame addr reg data)
  | .frameReportFirmware rest => .line (firmwareFrame rest)
  | .rxS0Start => .rxByte startMarker
  | .rxS0Discard byte => .rxByte byte
  | .rxS1Tag => .rxByte i2cReply
  | .rxS1Discard byte => .rxByte byte
  | .rxS2End => .rxByte endMarker
  | .rxS2EndShort => .rxByte endMarker
  | .rxS2Append byte => .rxByte byte
  | .rxS2Overflow byte => .rxByte byte
  | .rxNotAccepted byte => .rxByte byte
  | .rxErr => .rxErr
  | .reset waiting => .reset waiting

/-- The `n` lowest bytes of `w`, the first in the low bits. -/
def tableBytes : Nat → Nat → List Byte
  | 0, _ => []
  | n + 1, w => BitVec.ofNat 8 w :: tableBytes n (w / 256)

/-- The port a word of the opcode table is read on (log entry 12): a byte that an inbound row fixes is an inbound
byte, the two bytes F0 79 are the reserved frame, other words of up to 24 bits are command words, and longer ones
are frames. -/
def tableSignal (nbits w : Nat) : Signal :=
  if nbits ≤ 8 then
    let byte := BitVec.ofNat 8 w
    if byte = startMarker ∨ byte = i2cReply ∨ byte = endMarker then .rxByte byte
    else .cmd (byte.setWidth 24)
  else if nbits ≤ 24 then
    (if nbits ≤ 16 ∧ tableBytes 2 w = firmwareFrame [] then .line (firmwareFrame [])
     else .cmd (BitVec.ofNat 24 (w % 2 ^ nbits)))
  else
    let bytes := tableBytes ((nbits + 7) / 8) w
    match decodeTxFrame bytes with
    | .ok _ => .txFrame bytes
    | .error _ => .line bytes

/-- The scanner state in which the opcode table gives an inbound byte its own row, and the number of payload bytes
that takes (R87, log entry 12): START in S0, the reply tag in S1, END in S2 with 4 payload bytes. -/
def tableView : Signal → Option (Sst × Nat)
  | .rxByte byte =>
    if byte = startMarker then some (.s0, 0)
    else if byte = i2cReply then some (.s1, 0)
    else some (.s2, 4)
  | _ => none

/-- The instruction the decoder reads from a word of the opcode table. -/
def decodeTableWord (nbits w : Nat) : Option Instr :=
  let sig := tableSignal nbits w
  let v : ScanView :=
    match tableView sig with
    | some (sst, plen) => ⟨sst, plen, 64⟩
    | none => ⟨.idle, 0, 64⟩
  (decode v sig).toOption

end Sys2Proof
end

