-- ==== Sys2Proof/Machine/State.lean ====
section
/-! DEFINITION. The block's state, what lies beside it at the transport, and the state after reset
(10_state.md R21 to R28, R33, R34). -/

namespace Sys2Proof.Machine

/-- The storage of one internal byte buffer, as (index, byte) cells. The block has no address space (R50); its
only storage is PBUF and OBUF, each indexed from 0. `Memory.wf` gives the canonical form. -/
abbrev Memory := List Host.Cell

/-- Every piece of state the spec gives the machine. -/
structure State where
  /-- SST, the scanner state (R21) -/
  sst : Sst
  /-- PLEN, the number of payload bytes in PBUF (R22) -/
  plen : Nat
  /-- PBUF, the payload buffer (R23) -/
  pbuf : Memory
  /-- OLEN, the number of outgoing bytes in OBUF (R24) -/
  olen : Nat
  /-- OBUF, the outgoing-byte buffer (R25) -/
  obuf : Memory
  /-- TADDR, the target address of the last read request (R26) -/
  taddr : Byte
  /-- CODEC_OUT, the result of the last PACK or UNPACK (R27) -/
  codecOut : BitVec 16
  /-- CERR, the completion code of the last host command (R28) -/
  cerr : CErr
  /-- the transport's pending inbound bytes, oldest first (R34(a)) -/
  pending : List Byte
  /-- the outbound history: every byte emitted on `tx_byte`, oldest first (R34(b)) -/
  sent : List Byte
  /-- the block's parameters (R6, R7, R1); the model's own field, written by no step (log entry 1) -/
  params : Params
  /-- the transport's answers to the frame writes to come, oldest first (R120); the model's own field (log entry 3) -/
  txAnswers : List TxAnswer
  /-- the events to come, oldest first (R11, R205); the model's own field (log entry 2) -/
  inputs : List Event
  /-- how many resets have left the buffers unspecified; the model's own field, from which the free bytes are drawn
  (R33, log entry 5) -/
  draws : Nat
deriving DecidableEq, Repr

/-- Why a step has no next state: it waits (R12). The block itself takes no traps (R206), and no fault here is an
error of the hardware. All are safe: the model has no step where the spec says none is enabled (log entry 4). -/
inductive Fault where
  /-- raised by the fetch when no event is left: no agent acts. Safe. -/
  | waitsForEvent
  /-- raised when the transport is to offer a byte and holds none: the scanner waits (R151, R170). Safe. -/
  | waitsForByte
  /-- raised by a frame command whose write the transport neither accepts nor fails (R120). Safe. -/
  | waitsForTransport
deriving DecidableEq, Repr

/-- What this model, or the spec, gives no meaning. -/
inductive Refusal where
  /-- raised by an arm of `exec` that has no meaning yet. Safe. -/
  | notModelled (mnemonic : String)
  /-- raised by an inbound row when the transport does not offer the row's byte, or the scanner's state is not the
  row's: the decode table gives that state another row (R87, log entry 7). The fetch never gives such a row. Safe. -/
  | rowNotSelected
  /-- raised by the fetch for a signal that decodes to no row. Every signal an event presents decodes, so no step
  raises it (the statement NoStepIsRefused). Safe. -/
  | undecodable (e : DecodeError)
  /-- raised by a read of the result port outside DONE (R12, R167). Safe. -/
  | resultNotDone
  /-- raised by a read of REPLY_DATA(k) with k at or above DCOUNT (R12, R167). Safe. -/
  | dataIndexOutOfRange
deriving DecidableEq, Repr

/-- The machine right after reset, with nothing at the transport and no event to come. SST, PLEN, OLEN, TADDR,
CODEC_OUT and CERR are R33's values. DESIGN CHOICE: the buffers' bytes (log entry 5), the parameters (log
entry 1), the empty transport and the empty list of events (log entries 2 and 3). -/
def State.reset : State where
  sst := .idle
  plen := 0
  pbuf := []
  olen := 0
  obuf := []
  taddr := 0x00#8
  codecOut := 0x0000#16
  cerr := .ok
  pending := []
  sent := []
  params := ⟨64, 16, true⟩
  txAnswers := []
  inputs := []
  draws := 0

end Sys2Proof.Machine
end

