-- ==== Sys2Proof/Machine/Ops.lean ====
section
/-! DEFINITION. The named operations over the buffers, the completion code, the two byte streams and the reset. -/

namespace Sys2Proof.Machine

/-- What an index of a buffer that no cell lists reads as. DESIGN CHOICE: 0x00, which no claim rests on, since the
bytes before the first write are unspecified and unobservable (R23, R25, log entry 5). -/
def unlistedByte : Byte := 0x00#8

/-- Canonical from index `lo` up: indices strictly rising, and no cell equal to what an unlisted index reads as. -/
def Memory.wfFrom : Nat → Memory → Bool
  | _, [] => true
  | lo, (i, v) :: rest => lo ≤ i && v != unlistedByte && Memory.wfFrom (i + 1) rest

/-- The canonical form of a buffer, in which equal contents are equal data. -/
def Memory.wf (m : Memory) : Bool := Memory.wfFrom 0 m

/-- Read one byte of a buffer: `PBUF[i]` and `OBUF[i]` of R15. -/
def Memory.read : Memory → Nat → Byte
  | [], _ => unlistedByte
  | (i, v) :: rest, a => if i = a then v else Memory.read rest a

/-- Put one cell in front, unless it holds what an unlisted index reads as. -/
def Memory.cons (a : Nat) (v : Byte) (m : Memory) : Memory := if v = unlistedByte then m else (a, v) :: m

/-- Write one byte of a buffer: `PBUF[i] <- v` of R15. -/
def Memory.write : Memory → Nat → Byte → Memory
  | [], a, v => Memory.cons a v []
  | (i, w) :: rest, a, v =>
    if a < i then Memory.cons a v ((i, w) :: rest)
    else if a = i then Memory.cons a v rest
    else (i, w) :: Memory.write rest a v

/-- A buffer of `n` bytes with the given contents, in canonical form. -/
def Memory.fill (f : Nat → Byte) : Nat → Memory
  | 0 => []
  | n + 1 => (Memory.fill f n).write n (f n)

/-- S0, S1 and S2 are scanning; the other states are not (R21). -/
def scanning : Sst → Bool
  | .s0 => true
  | .s1 => true
  | .s2 => true
  | .idle => false
  | .done => false
  | .abort => false
  | .short => false
  | .ovf => false

/-- What the decoding of an inbound byte sees of the state (R87). -/
def State.scanView (s : State) : ScanView := ⟨s.sst, s.plen, s.params.payloadMax⟩

/-- A command completes with OK: `CERR <- OK` (R203). -/
def complete (s : State) : Host.Outcome State Fault Refusal := .next { s with cerr := .ok }

/-- `raise CmdError(code)`: the code is recorded and the command ends (R15, R203). This is all the block has in
place of taking an exception: nothing is saved, masked or transferred (R206), so nothing returns from it (R207). -/
def raiseCmdError (code : CErr) (s : State) : Host.Outcome State Fault Refusal := .next { s with cerr := code }

/-- The one effect of an illegal command word (R72, R73). -/
def illegalCommand (s : State) : Host.Outcome State Fault Refusal := raiseCmdError .illegal s

/-- A framer step in a block with a framer; without one its word is reserved and acts as R72 says (the opening of
41_framer.md). -/
def withFramer (s : State) (run : Host.Outcome State Fault Refusal) : Host.Outcome State Fault Refusal :=
  if s.params.framer then run else illegalCommand s

/-- `EmitFrame(s)`: the transport takes the whole frame and the command completes with OK, or takes a prefix and
the command completes with TX_ERR, or does not answer and the command waits (R120). -/
def emitFrame (bytes : List Byte) (s : State) : Host.Outcome State Fault Refusal :=
  match s.txAnswers with
  | [] => .fault .waitsForTransport
  | .accept :: later => .next { s with sent := s.sent ++ bytes, cerr := .ok, txAnswers := later }
  | .error taken :: later => .next { s with sent := s.sent ++ bytes.take taken, cerr := .txErr, txAnswers := later }

/-- The outgoing bytes `OBUF[0 .. OLEN-1]`, in index order (R52). -/
def outgoing (s : State) : List Byte := (List.range s.olen).map s.obuf.read

/-- The payload bytes `PBUF[0 .. PLEN-1]`, in index order (R51). -/
def payload (s : State) : List Byte := (List.range s.plen).map s.pbuf.read

/-- Bytes arrive at the transport and wait there behind those already pending (R34(a)). -/
def arrive (bytes : List Byte) (s : State) : State := { s with pending := s.pending ++ bytes }

/-- Accepting a byte removes it from the transport (R58, R151). -/
def takeByte (s : State) : State := { s with pending := s.pending.tail }

/-- One row of the decode table of R87: where the transport offers `byte` and the row's condition holds, the row's
effect; elsewhere the table gives the byte another row (log entry 7). -/
def rxRow (byte : Byte) (cond : Bool) (s t : State) : Host.Outcome State Fault Refusal :=
  if s.pending.head? = some byte ∧ cond = true then .next t else .refused .rowNotSelected

/-- The frame a framer command sends in this state; other instructions send none. -/
def commandFrame (i : Instr) (s : State) : List Byte :=
  if s.params.framer then
    match i with
    | .frameConfig _ _ => configFrame
    | .frameWrite a _ => requestFrame writeMode a (outgoing s)
    | .frameRead a _ => requestFrame readMode a (outgoing s)
    | _ => []
  else []

/-- What has left of the frame of a command that reset finds waiting: a prefix of any length (R240). -/
def abandonedPrefix (waiting : Option (CmdWord × Nat)) (s : State) : List Byte :=
  match waiting with
  | none => []
  | some (w, taken) => (commandFrame (decodeCmd w) s).take taken

/-- `reset` on the block: every element to its reset value (R33, R240). The buffers' contents, which the spec leaves
unspecified, become free values (log entry 5); the transport is not touched (R241). -/
def resetBlock (s : State) : State :=
  { s with
    sst := .idle, plen := 0, pbuf := Memory.fill (Config.resetByte (2 * s.draws)) s.params.payloadMax,
    olen := 0, obuf := Memory.fill (Config.resetByte (2 * s.draws + 1)) s.params.outMax,
    taddr := 0x00#8, codecOut := 0x0000#16, cerr := .ok, draws := s.draws + 1 }

end Sys2Proof.Machine
end

