-- ==== Sys2Proof/Machine/Codec.lean ====
section
/-! DEFINITION. The codec's commands and NOP (40_codec.md section 2). -/

namespace Sys2Proof.Machine

/-- NOP: `CERR <- OK`, with A and B ignored (R105). -/
def execNop (_a _b : Byte) (s : State) : Host.Outcome State Fault Refusal := complete s

/-- PACK: `CODEC_OUT <- {high7, low7}` of A (R106). -/
def execPack (a _b : Byte) (s : State) : Host.Outcome State Fault Refusal :=
  complete { s with codecOut := packHigh a ++ packLow a }

/-- UNPACK: `CODEC_OUT <- {0, unpack(A, B)}` (R107). -/
def execUnpack (a b : Byte) (s : State) : Host.Outcome State Fault Refusal :=
  complete { s with codecOut := 0#1 ++ unpack a b }

end Sys2Proof.Machine
end

