-- ==== Sys2Proof/Machine/Framer.lean ====
section
/-! DEFINITION. The framer: the outgoing-byte buffer, the frame commands, and the frames it sends (41_framer.md).
In a block without a framer these are reserved words (the opening of 41_framer.md). -/

namespace Sys2Proof.Machine

/-- OUT_CLEAR: `OLEN <- 0`; OBUF's bytes are not erased (R121). -/
def execOutClear (_a _b : Byte) (s : State) : Host.Outcome State Fault Refusal :=
  withFramer s (complete { s with olen := 0 })

/-- OUT_PUSH: append A to OBUF, or OUT_OVF with no other change when it is full (R122). -/
def execOutPush (a _b : Byte) (s : State) : Host.Outcome State Fault Refusal :=
  withFramer s
    (if s.olen < s.params.outMax then complete { s with obuf := s.obuf.write s.olen a, olen := s.olen + 1 }
     else raiseCmdError .outOvf s)

/-- FRAME_CONFIG: send the configuration frame (R123). -/
def execFrameConfig (_a _b : Byte) (s : State) : Host.Outcome State Fault Refusal :=
  withFramer s (emitFrame configFrame s)

/-- FRAME_WRITE: send a write request for address A with the outgoing bytes (R124). -/
def execFrameWrite (a _b : Byte) (s : State) : Host.Outcome State Fault Refusal :=
  withFramer s (emitFrame (requestFrame writeMode a (outgoing s)) s)

/-- FRAME_READ: record A in TADDR and send a read request for it with the outgoing bytes (R125). -/
def execFrameRead (a _b : Byte) (s : State) : Host.Outcome State Fault Refusal :=
  withFramer s (emitFrame (requestFrame readMode a (outgoing s)) { s with taddr := a })

/-- FRAME_I2C_CONFIG: the step of FRAME_CONFIG, read by the frame it sends (R76, R123, log entry 6). -/
def execFrameI2cConfig (s : State) : Host.Outcome State Fault Refusal :=
  withFramer s (emitFrame configFrame s)

/-- FRAME_REQ_WRITE: the step of FRAME_WRITE for `addr`, read by the frame it sends (R77, R124, log entry 6). -/
def execFrameReqWrite (addr : Byte) (out : List Byte) (s : State) : Host.Outcome State Fault Refusal :=
  withFramer s (emitFrame (requestFrame writeMode addr out) s)

/-- FRAME_REQ_READ: the step of FRAME_READ for `addr`, read by the frame it sends (R78, R125, log entry 6). -/
def execFrameReqRead (addr : Byte) (out : List Byte) (s : State) : Host.Outcome State Fault Refusal :=
  withFramer s (emitFrame (requestFrame readMode addr out) { s with taddr := addr })

end Sys2Proof.Machine
end

