-- ==== Sys2Proof/Machine/Reserved.lean ====
section
/-! DEFINITION. The illegal command words: `CERR <- ILLEGAL` and nothing else (R72, R73). -/

namespace Sys2Proof.Machine

/-- RESERVED_OP_9 (R72). -/
def execReservedOp9 (_a _b : Byte) (s : State) : Host.Outcome State Fault Refusal := illegalCommand s

/-- RESERVED_OP_A (R72). -/
def execReservedOpA (_a _b : Byte) (s : State) : Host.Outcome State Fault Refusal := illegalCommand s

/-- RESERVED_OP_B (R72). -/
def execReservedOpB (_a _b : Byte) (s : State) : Host.Outcome State Fault Refusal := illegalCommand s

/-- RESERVED_OP_C (R72). -/
def execReservedOpC (_a _b : Byte) (s : State) : Host.Outcome State Fault Refusal := illegalCommand s

/-- RESERVED_OP_D (R72). -/
def execReservedOpD (_a _b : Byte) (s : State) : Host.Outcome State Fault Refusal := illegalCommand s

/-- RESERVED_OP_E (R72). -/
def execReservedOpE (_a _b : Byte) (s : State) : Host.Outcome State Fault Refusal := illegalCommand s

/-- RESERVED_OP_F (R72). -/
def execReservedOpF (_a _b : Byte) (s : State) : Host.Outcome State Fault Refusal := illegalCommand s

/-- RESERVED_RSV: whatever the OP (R73, R204). -/
def execReservedRsv (_rsv _op : BitVec 4) (_a _b : Byte) (s : State) : Host.Outcome State Fault Refusal :=
  illegalCommand s

end Sys2Proof.Machine
end

