-- ==== Sys2Proof/Machine/Reset.lean ====
section
/-! DEFINITION. The reset event (70_reset_and_hazards.md section 1). -/

namespace Sys2Proof.Machine

/-- RESET: what has left of a waiting frame stays emitted, every element takes its reset value, and the command
that waited or coincided is not executed (R205(a), R240, R241). -/
def execReset (waiting : Option (CmdWord × Nat)) (s : State) : Host.Outcome State Fault Refusal :=
  .next { resetBlock s with sent := s.sent ++ abandonedPrefix waiting s }

end Sys2Proof.Machine
end

