-- ==== Sys2Proof/Machine/Scanner.lean ====
section
/-! DEFINITION. The reply scanner: arming, the inbound bytes, the read error, and the frames of the far end
(42_scanner.md). -/

namespace Sys2Proof.Machine

/-- SCAN_START: BUSY with no other change while scanning; else `SST <- S0` and `PLEN <- 0` (R150). -/
def execScanStart (_a _b : Byte) (s : State) : Host.Outcome State Fault Refusal :=
  if scanning s.sst then raiseCmdError .busy s else complete { s with sst := .s0, plen := 0 }

/-- RX_S0_START: `SST <- S1` (R152). -/
def execRxS0Start (s : State) : Host.Outcome State Fault Refusal :=
  rxRow startMarker (s.sst = .s0) s { takeByte s with sst := .s1 }

/-- RX_S0_DISCARD: the byte is consumed and SST stays S0 (R153). -/
def execRxS0Discard (byte : Byte) (s : State) : Host.Outcome State Fault Refusal :=
  rxRow byte (s.sst = .s0 ∧ byte ≠ startMarker) s (takeByte s)

/-- RX_S1_TAG: `SST <- S2` (R154). -/
def execRxS1Tag (s : State) : Host.Outcome State Fault Refusal :=
  rxRow i2cReply (s.sst = .s1) s { takeByte s with sst := .s2 }

/-- RX_S1_DISCARD: the byte is consumed and SST stays S1, for a stray marker too (R155). -/
def execRxS1Discard (byte : Byte) (s : State) : Host.Outcome State Fault Refusal :=
  rxRow byte (s.sst = .s1 ∧ byte ≠ i2cReply) s (takeByte s)

/-- RX_S2_END: `SST <- DONE`; the end marker is not stored (R156). -/
def execRxS2End (s : State) : Host.Outcome State Fault Refusal :=
  rxRow endMarker (s.sst = .s2 ∧ 4 ≤ s.plen) s { takeByte s with sst := .done }

/-- RX_S2_END_SHORT: `SST <- SHORT` (R157). -/
def execRxS2EndShort (s : State) : Host.Outcome State Fault Refusal :=
  rxRow endMarker (s.sst = .s2 ∧ s.plen < 4) s { takeByte s with sst := .short }

/-- RX_S2_APPEND: `PBUF[PLEN] <- b`, `PLEN <- PLEN + 1` (R158). -/
def execRxS2Append (byte : Byte) (s : State) : Host.Outcome State Fault Refusal :=
  rxRow byte (s.sst = .s2 ∧ byte ≠ endMarker ∧ s.plen < s.params.payloadMax) s
    { takeByte s with pbuf := s.pbuf.write s.plen byte, plen := s.plen + 1 }

/-- RX_S2_OVERFLOW: the byte is consumed and not stored, and `SST <- OVF` (R159). -/
def execRxS2Overflow (byte : Byte) (s : State) : Host.Outcome State Fault Refusal :=
  rxRow byte (s.sst = .s2 ∧ byte ≠ endMarker ∧ s.params.payloadMax ≤ s.plen) s { takeByte s with sst := .ovf }

/-- RX_NOT_ACCEPTED: not scanning, so the byte stays pending in the transport (R151). -/
def execRxNotAccepted (byte : Byte) (s : State) : Host.Outcome State Fault Refusal :=
  rxRow byte (!scanning s.sst) s s

/-- RX_ERR: a read error aborts a scan, and has no effect outside one (R160). -/
def execRxErr (s : State) : Host.Outcome State Fault Refusal :=
  .next (if scanning s.sst then { s with sst := .abort } else s)

/-- The meaning of an inbound row; other instructions are no inbound row. -/
def execInbound (i : Instr) (s : State) : Host.Outcome State Fault Refusal :=
  match i with
  | .rxS0Start => execRxS0Start s
  | .rxS0Discard byte => execRxS0Discard byte s
  | .rxS1Tag => execRxS1Tag s
  | .rxS1Discard byte => execRxS1Discard byte s
  | .rxS2End => execRxS2End s
  | .rxS2EndShort => execRxS2EndShort s
  | .rxS2Append byte => execRxS2Append byte s
  | .rxS2Overflow byte => execRxS2Overflow byte s
  | .rxNotAccepted byte => execRxNotAccepted byte s
  | _ => .refused .rowNotSelected

/-- The transport offers its oldest pending byte, and the row that R87 gives the byte is carried out (R11(b), R61);
with no byte the scanner waits (R170). -/
def offerOldest (s : State) : Host.Outcome State Fault Refusal :=
  match s.pending with
  | [] => .fault .waitsForByte
  | byte :: _ => execInbound (decodeRx s.scanView byte) s

/-- FRAME_REPLY: the reply's bytes arrive at the transport, and the scanner is offered the oldest pending byte; the
others follow one at a time (R79, R34(a), R61, log entry 6). -/
def execFrameReply (addr reg : BitVec 14) (data : List Byte) (s : State) : Host.Outcome State Fault Refusal :=
  offerOldest (arrive (replyFrame addr reg data) s)

/-- FRAME_REPORT_FIRMWARE: its bytes arrive like those of any frame and mean nothing of their own to the scanner
(R82, log entries 6 and 17). -/
def execFrameReportFirmware (rest : List Byte) (s : State) : Host.Outcome State Fault Refusal :=
  offerOldest (arrive (firmwareFrame rest) s)

end Sys2Proof.Machine
end

