-- ==== Sys2Proof/Machine/Dispatch.lean ====
section
/-! DEFINITION. The dispatch: one arm for each row of spec/opcode_table.json. -/

namespace Sys2Proof.Machine

/-- The effect of one row of the opcode table. -/
def exec (i : Instr) (s : State) : Host.Outcome State Fault Refusal :=
  match i with
  | .nop a b => Sys2Proof.Machine.execNop a b s
  | .outClear a b => Sys2Proof.Machine.execOutClear a b s
  | .outPush a b => Sys2Proof.Machine.execOutPush a b s
  | .frameConfig a b => Sys2Proof.Machine.execFrameConfig a b s
  | .frameWrite a b => Sys2Proof.Machine.execFrameWrite a b s
  | .frameRead a b => Sys2Proof.Machine.execFrameRead a b s
  | .scanStart a b => Sys2Proof.Machine.execScanStart a b s
  | .pack a b => Sys2Proof.Machine.execPack a b s
  | .unpack a b => Sys2Proof.Machine.execUnpack a b s
  | .reservedOp9 a b => Sys2Proof.Machine.execReservedOp9 a b s
  | .reservedOpA a b => Sys2Proof.Machine.execReservedOpA a b s
  | .reservedOpB a b => Sys2Proof.Machine.execReservedOpB a b s
  | .reservedOpC a b => Sys2Proof.Machine.execReservedOpC a b s
  | .reservedOpD a b => Sys2Proof.Machine.execReservedOpD a b s
  | .reservedOpE a b => Sys2Proof.Machine.execReservedOpE a b s
  | .reservedOpF a b => Sys2Proof.Machine.execReservedOpF a b s
  | .reservedRsv rsv op a b => Sys2Proof.Machine.execReservedRsv rsv op a b s
  | .frameI2cConfig => Sys2Proof.Machine.execFrameI2cConfig s
  | .frameReqWrite addr out => Sys2Proof.Machine.execFrameReqWrite addr out s
  | .frameReqRead addr out => Sys2Proof.Machine.execFrameReqRead addr out s
  | .frameReply addr reg data => Sys2Proof.Machine.execFrameReply addr reg data s
  | .frameReportFirmware rest => Sys2Proof.Machine.execFrameReportFirmware rest s
  | .rxS0Start => Sys2Proof.Machine.execRxS0Start s
  | .rxS0Discard byte => Sys2Proof.Machine.execRxS0Discard byte s
  | .rxS1Tag => Sys2Proof.Machine.execRxS1Tag s
  | .rxS1Discard byte => Sys2Proof.Machine.execRxS1Discard byte s
  | .rxS2End => Sys2Proof.Machine.execRxS2End s
  | .rxS2EndShort => Sys2Proof.Machine.execRxS2EndShort s
  | .rxS2Append byte => Sys2Proof.Machine.execRxS2Append byte s
  | .rxS2Overflow byte => Sys2Proof.Machine.execRxS2Overflow byte s
  | .rxNotAccepted byte => Sys2Proof.Machine.execRxNotAccepted byte s
  | .rxErr => Sys2Proof.Machine.execRxErr s
  | .reset waiting => Sys2Proof.Machine.execReset waiting s

end Sys2Proof.Machine
end

