-- ==== Sys2Proof/Machine/Fetch.lean ====
section
/-! DEFINITION. Fetching the next step: which agent moves, what it presents, and how that decodes. -/

namespace Sys2Proof.Machine

/-- The oldest event is used up. -/
def dropInput (s : State) : State := { s with inputs := s.inputs.tail }

/-- How a host command presents itself where it is read by its frame: as the frame it sends, or as its word where it
sends none (log entry 6). -/
def frameSignal (w : CmdWord) (s : State) : Signal :=
  match commandFrame (decodeCmd w) s with
  | [] => .cmd w
  | byte :: rest => .txFrame (byte :: rest)

/-- What the oldest event presents to the block, or what the step waits for (R11, R12). -/
def nextSignal (s : State) : Except Fault Signal :=
  match s.inputs with
  | [] => .error .waitsForEvent
  | .cmd w :: _ => .ok (.cmd w)
  | .offer :: _ =>
    match s.pending with
    | [] => .error .waitsForByte
    | byte :: _ => .ok (.rxByte byte)
  | .rxErr :: _ => .ok .rxErr
  | .reset waiting :: _ => .ok (.reset waiting)
  | .frame w :: _ => .ok (frameSignal w s)
  | .deliver bytes :: _ => .ok (.line bytes)

/-- What one fetch gives. -/
inductive Fetched where
  /-- run this row in this state -/
  | run (i : Instr) (s : State)
  /-- no step is enabled (R12) -/
  | waits (f : Fault)
  /-- the bytes are no row of the table -/
  | reject (r : Refusal)

/-- Bytes from the far end need be no frame: they arrive, and the row is that of the oldest pending byte (R34(a), R87).
No other signal that an event presents fails to decode. -/
def fetchUndecoded (sig : Signal) (e : DecodeError) (s : State) : Fetched :=
  match sig with
  | .line bytes =>
    match s.pending ++ bytes with
    | [] => .waits .waitsForByte
    | byte :: _ => .run (decodeRx s.scanView byte) (arrive bytes s)
  | _ => .reject (.undecodable e)

/-- Take the oldest event and decode it in the scanner's present state (R11, R87). -/
def fetch (s : State) : Fetched :=
  match nextSignal s with
  | .error f => .waits f
  | .ok sig =>
    match decode s.scanView sig with
    | .ok i => .run i (dropInput s)
    | .error e => fetchUndecoded sig e (dropInput s)

/-- A frame write needs an answer of the transport to complete (R120); other rows need none. -/
def needsAnswer : Instr → Bool
  | .frameConfig _ _ => true
  | .frameWrite _ _ => true
  | .frameRead _ _ => true
  | .frameI2cConfig => true
  | .frameReqWrite _ _ => true
  | .frameReqRead _ _ => true
  | _ => false

/-- One more answer of the transport, where there is none yet and the instruction is a frame write. -/
def withAnswer (i : Option Instr) (s : State) : State :=
  if (i.map needsAnswer).getD false ∧ s.txAnswers = [] then { s with txAnswers := [.accept] } else s

/-- The scanner put where the opcode table gives an inbound byte its own row (log entry 12). -/
def withView (v : Option (Sst × Nat)) (s : State) : State :=
  match v with
  | none => s
  | some (sst, plen) => { s with sst := sst, plen := max plen s.plen }

/-- OBUF holding exactly these outgoing bytes. -/
def withOutgoing (out : List Byte) (s : State) : State :=
  { s with obuf := Memory.fill (fun i => out.getD i 0x00#8) out.length, olen := out.length }

/-- The host command that sends a frame of the opcode table, with the outgoing bytes it needs, placed as the next
event (R123 to R125); other instructions send no frame. -/
def placeFrame (i : Instr) (s : State) : State :=
  match i with
  | .frameI2cConfig => { s with inputs := .frame (cmdWord 0x00#8 0x00#8 0x0#4 0x3#4) :: s.inputs }
  | .frameReqWrite addr out =>
    { withOutgoing out s with inputs := .frame (cmdWord 0x00#8 addr 0x0#4 0x4#4) :: s.inputs }
  | .frameReqRead addr out =>
    { withOutgoing out s with inputs := .frame (cmdWord 0x00#8 addr 0x0#4 0x5#4) :: s.inputs }
  | _ => s

/-- Place a word of the opcode table where the next step takes it (log entry 12). -/
def placeWord (s : State) (nbits w : Nat) : State :=
  let sig := tableSignal nbits w
  let i := decodeTableWord nbits w
  let s := withView (tableView sig) (withAnswer i s)
  match sig with
  | .cmd w => { s with inputs := .cmd w :: s.inputs }
  | .rxByte byte => { s with inputs := .offer :: s.inputs, pending := byte :: s.pending }
  | .rxErr => { s with inputs := .rxErr :: s.inputs }
  | .reset waiting => { s with inputs := .reset waiting :: s.inputs }
  | .txFrame _ =>
    match i with
    | some frame => placeFrame frame s
    | none => s
  | .line bytes => { s with inputs := .deliver bytes :: s.inputs }

end Sys2Proof.Machine
end

