-- ==== Sys2Proof/Machine/Step.lean ====
section
/-! DEFINITION. One step of the machine (R11, R12). -/

namespace Sys2Proof.Machine

/-- One step: the oldest event is taken, decoded and carried out to completion. -/
def step (s : State) : Host.Outcome State Fault Refusal :=
  match fetch s with
  | .run i t => exec i t
  | .waits f => .fault f
  | .reject r => .refused r

/-- The state with a word of the opcode table placed where `step` takes its next event. -/
def State.withFetchWord (s : State) (nbits w : Nat) : State := placeWord s nbits w

end Sys2Proof.Machine
end

