-- ==== Sys2Proof/Machine/Reply.lean ====
section
/-! DEFINITION. The decode of a completed payload (R162 to R165): combinational functions of PBUF and PLEN, with a
meaning only in DONE; Machine/Ports.lean refuses them elsewhere. -/

namespace Sys2Proof.Machine

/-- REPLY_ADDR (R162). -/
def replyAddr (s : State) : Field15 := unpack (s.pbuf.read 0) (s.pbuf.read 1)

/-- REPLY_REG (R163). -/
def replyReg (s : State) : Field15 := unpack (s.pbuf.read 2) (s.pbuf.read 3)

/-- DCOUNT (R164). -/
def dcount (s : State) : Nat := (s.plen - 4) >>> 1

/-- REPLY_DATA(k) (R165). -/
def replyData (s : State) (k : Nat) : Byte := unpack8 (s.pbuf.read (4 + 2 * k)) (s.pbuf.read (5 + 2 * k))

/-- All data bytes of the reply, in payload order (R165). -/
def replyBytes (s : State) : List Byte := (List.range (dcount s)).map (replyData s)

end Sys2Proof.Machine
end

