-- ==== Sys2Proof/Machine/Flags.lean ====
section
/-! DEFINITION. STATUS and the combinational flags in it (R29 to R31, R166). -/

namespace Sys2Proof.Machine

/-- The 3-bit encoding of SST (R21). -/
def sstCode : Sst → BitVec 3
  | .idle => 0#3
  | .s0 => 1#3
  | .s1 => 2#3
  | .s2 => 3#3
  | .done => 4#3
  | .abort => 5#3
  | .short => 6#3
  | .ovf => 7#3

/-- The 4-bit encoding of CERR (R201). -/
def cerrCode : CErr → BitVec 4
  | .ok => 0#4
  | .illegal => 1#4
  | .busy => 2#4
  | .outOvf => 3#4
  | .txErr => 4#4

/-- `DONE_LVL = (SST >= 4)` (R30). -/
def doneLvl (s : State) : Bool := 4#3 ≤ sstCode s.sst

/-- `MATCH = (SST == DONE) and (REPLY_ADDR == zext_15(TADDR))` (R166). -/
def matchFlag (s : State) : Bool := s.sst = .done ∧ replyAddr s = s.taddr.setWidth 15

/-- STATUS, read on the `status` port: SST, DONE_LVL, CERR, MATCH, and seven bits that read 0 (R29). -/
def status (s : State) : BitVec 16 :=
  0#7 ++ BitVec.ofBool (matchFlag s) ++ cerrCode s.cerr ++ BitVec.ofBool (doneLvl s) ++ sstCode s.sst

end Sys2Proof.Machine
end

