-- ==== Sys2Proof/Machine/Ports.lean ====
section
/-! DEFINITION. The ports the host reads (R10, R57). A read is no step and changes nothing (R58). -/

namespace Sys2Proof.Machine

/-- The `status` port (R29). -/
def readStatus (s : State) : BitVec 16 := status s

/-- The `codec_out` port (R27). -/
def readCodecOut (s : State) : BitVec 16 := s.codecOut

/-- A read of the `result` port: it has a value only in DONE (R167). -/
def onDone {α : Type} (s : State) (v : α) : Except Refusal α :=
  if s.sst = .done then .ok v else .error .resultNotDone

/-- The `result` port's REPLY_ADDR (R162, R167). -/
def readReplyAddr (s : State) : Except Refusal Field15 := onDone s (replyAddr s)

/-- The `result` port's REPLY_REG (R163, R167). -/
def readReplyReg (s : State) : Except Refusal Field15 := onDone s (replyReg s)

/-- The `result` port's DCOUNT (R164, R167). -/
def readDcount (s : State) : Except Refusal Nat := onDone s (dcount s)

/-- The `result` port's REPLY_DATA(k), refused for `k >= DCOUNT` (R165, R167). -/
def readReplyData (s : State) (k : Nat) : Except Refusal Byte :=
  if s.sst = .done ∧ dcount s ≤ k then .error .dataIndexOutOfRange else onDone s (replyData s k)

end Sys2Proof.Machine
end

