-- ==== Sys2Proof/Machine/Session.lean ====
section
/-! DEFINITION. The host's reference sequence over the block's commands (30_encoding.md R85, 60_exceptions.md R212 to
R217, 70_reset_and_hazards.md R243). It is the host's and not the block's: `step` uses none of it. Also runs of several steps. -/

namespace Sys2Proof.Machine

/-- `n` steps one after another, stopping where one has no next state. -/
def runSteps : Nat → State → Host.Outcome State Fault Refusal
  | 0, s => .next s
  | n + 1, s =>
    match step s with
    | .next t => runSteps n t
    | .fault f => .fault f
    | .refused r => .refused r

/-- The pseudo-instruction OUT_LOAD (R85). -/
def outLoad (bytes : List Byte) : List Instr := .outClear 0#8 0#8 :: bytes.map fun byte => .outPush byte 0#8

/-- The pseudo-instruction I2C_WRITE (R85). -/
def i2cWrite (addr : Byte) (bytes : List Byte) : List Instr := outLoad bytes ++ [.frameWrite addr 0#8]

/-- The pseudo-instruction I2C_READ (R85). -/
def i2cRead (addr : Byte) (bytes : List Byte) : List Instr :=
  outLoad bytes ++ [.frameRead addr 0#8, .scanStart 0#8 0#8]

/-- The commands of the write phase, performed only if `out` is supplied (R213). -/
def writePhase (addr : Byte) : Option (List Byte) → List Instr
  | some out => i2cWrite addr out
  | none => []

/-- The commands of the read phase, performed only if a buffer is supplied; OBUF still holds the outgoing bytes
(R214). -/
def readPhase (addr : Byte) (out : Option (List Byte)) (wanted : Bool) : List Instr :=
  if wanted then
    (match out with
     | some _ => []
     | none => [.outClear 0#8 0#8]) ++ [.frameRead addr 0#8, .scanStart 0#8 0#8]
  else []

/-- The commands of `transact(addr, outgoing, incomingBuffer)`, the write phase first; with neither, none (R214,
R216). -/
def transactCommands (addr : Byte) (out : Option (List Byte)) (wanted : Bool) : List Instr :=
  writePhase addr out ++ readPhase addr out wanted

/-- The command of the boot order, issued once before the first transaction (R242, R243). -/
def bootCommands : List Instr := [.frameConfig 0#8 0#8]

/-- The host issues commands one after another, stopping where one has no next state, or where a frame command
completed with TX_ERR; `transact` then fails the transaction (R213, R214). -/
def issue : List Instr → State → Host.Outcome State Fault Refusal
  | [], s => .next s
  | i :: rest, s =>
    match exec i s with
    | .next t => if t.cerr = .txErr then .next t else issue rest t
    | .fault f => .fault f
    | .refused r => .refused r

/-- How a transaction stands for the host. -/
inductive Verdict where
  /-- success with no read phase: a write phase alone, or neither phase (R213, R216) -/
  | success
  /-- DONE_LVL is 0: the host still waits, maybe for ever (R214, R170) -/
  | waiting
  /-- a transport error (R213, R214) -/
  | transportError
  /-- SHORT or OVF: a malformed reply (R214) -/
  | malformedReply
  /-- MATCH: these bytes are copied and success is reported (R215); how many when the buffer's length differs is the
  host's own rule (N8) -/
  | copy (data : List Byte)
  /-- a mismatch under SOURCE: success with nothing copied (R215) -/
  | nothingCopied
  /-- a mismatch under RESCAN: SCAN_START and wait again, which `awaitReply` does (R215) -/
  | rescan
  /-- a mismatch under ERROR (R215) -/
  | mismatchError
deriving DecidableEq, Repr

/-- What the host does on a mismatch under its policy (R8, R215). -/
def mismatchVerdict : MismatchPolicy → Verdict
  | .source => .nothingCopied
  | .rescan => .rescan
  | .error => .mismatchError

/-- The verdicts that `transact` reports as success (R213, R215, R216). -/
def Verdict.reportsSuccess : Verdict → Bool
  | .success => true
  | .copy _ => true
  | .nothingCopied => true
  | .waiting => false
  | .transportError => false
  | .malformedReply => false
  | .rescan => false
  | .mismatchError => false

/-- The host's verdict once SCAN_START has been issued, by SST and MATCH (the case of R214, and R215). -/
def verdict (policy : MismatchPolicy) (s : State) : Verdict :=
  match s.sst with
  | .idle => .waiting
  | .s0 => .waiting
  | .s1 => .waiting
  | .s2 => .waiting
  | .abort => .transportError
  | .short => .malformedReply
  | .ovf => .malformedReply
  | .done => if matchFlag s then .copy (replyBytes s) else mismatchVerdict policy

/-- Where a transaction has come to. -/
inductive Session where
  /-- it has ended with a verdict -/
  | ended (v : Verdict) (s : State)
  /-- the host still waits for DONE_LVL after the steps it was given -/
  | running (s : State)
  /-- a command or a step waits for another agent (R12, R120, R170) -/
  | waits (f : Fault)
  /-- a command or a step is refused -/
  | refused (r : Refusal)
deriving DecidableEq, Repr

/-- The host waits for DONE_LVL while at most `n` further steps and commands take place: a step while the scan goes on,
SCAN_START again on a mismatch under RESCAN, and the end on any other verdict (R214, R215, R8). -/
def awaitReply (policy : MismatchPolicy) : Nat → State → Session
  | 0, s => .running s
  | n + 1, s =>
    match verdict policy s with
    | .waiting =>
      match step s with
      | .next t => awaitReply policy n t
      | .fault f => .waits f
      | .refused r => .refused r
    | .rescan =>
      match exec (.scanStart 0#8 0#8) s with
      | .next t => awaitReply policy n t
      | .fault f => .waits f
      | .refused r => .refused r
    | .success => .ended .success s
    | .transportError => .ended .transportError s
    | .malformedReply => .ended .malformedReply s
    | .copy data => .ended (.copy data) s
    | .nothingCopied => .ended .nothingCopied s
    | .mismatchError => .ended .mismatchError s

/-- After the commands: a frame command's TX_ERR fails the transaction with a transport error, a write phase alone has
succeeded, and a read phase waits for the reply (R213, R214). -/
def afterCommands (policy : MismatchPolicy) (wanted : Bool) (n : Nat) (s : State) : Session :=
  if s.cerr = .txErr then .ended .transportError s
  else if wanted then awaitReply policy n s
  else .ended .success s

/-- `transact(addr, outgoing, incomingBuffer)`, waiting for at most `n` steps (R213 to R216). With neither outgoing bytes
nor a buffer it issues no command and succeeds. -/
def transact (policy : MismatchPolicy) (addr : Byte) (out : Option (List Byte)) (wanted : Bool) (n : Nat) (s : State) :
    Session :=
  if out = none ∧ wanted = false then .ended .success s
  else
    match issue (transactCommands addr out wanted) s with
    | .next t => afterCommands policy wanted n t
    | .fault f => .waits f
    | .refused r => .refused r

end Sys2Proof.Machine
end

