-- ==== Sys2Proof/Safety.lean ====
section
/-! DEFINITION. The terms claims are stated in: the machine's invariant, well-formed frames, and the write set of a
step. -/

namespace Sys2Proof.Machine

/-- Every cell of a buffer lies below its capacity (R23, R25). -/
def Memory.below (n : Nat) (m : Memory) : Bool := m.all fun cell => cell.1 < n

/-- What holds of the machine in every state a run from reset reaches. -/
structure State.Inv (s : State) : Prop where
  /-- the parameters are legal (R6, R7) -/
  legal : s.params.Legal
  /-- PLEN is at most PAYLOAD_MAX (R22) -/
  plen_le : s.plen ≤ s.params.payloadMax
  /-- OLEN is at most OUT_MAX (R24) -/
  olen_le : s.olen ≤ s.params.outMax
  /-- PBUF is in canonical form -/
  pbuf_wf : s.pbuf.wf = true
  /-- OBUF is in canonical form -/
  obuf_wf : s.obuf.wf = true
  /-- PBUF has PAYLOAD_MAX bytes (R23) -/
  pbuf_below : s.pbuf.below s.params.payloadMax = true
  /-- OBUF has OUT_MAX bytes (R25) -/
  obuf_below : s.obuf.below s.params.outMax = true
  /-- no payload before S2 (R150, R154) -/
  no_payload : s.sst = .idle ∨ s.sst = .s0 ∨ s.sst = .s1 → s.plen = 0
  /-- DONE implies PLEN at least 4 (R156, section 3 of 42_scanner.md) -/
  done_long : s.sst = .done → 4 ≤ s.plen
  /-- SHORT implies PLEN below 4 (R157) -/
  short_few : s.sst = .short → s.plen < 4
  /-- OVF implies a full buffer (R159) -/
  ovf_full : s.sst = .ovf → s.plen = s.params.payloadMax
  /-- without a framer TADDR keeps its reset value and OBUF stays empty (the opening of 41_framer.md) -/
  no_framer : s.params.framer = false → s.taddr = 0x00#8 ∧ s.olen = 0

/-- The states differ at most in what the spec calls not meaningful: the bytes of PBUF at or above PLEN, those of OBUF at
or above OLEN (R23, R25), and the model's count of free draws. -/
structure State.Alike (s u : State) : Prop where
  /-- every other field is the same -/
  rest : u = { s with pbuf := u.pbuf, obuf := u.obuf, draws := u.draws }
  /-- the payload is the same -/
  payload_eq : ∀ k, k < s.plen → u.pbuf.read k = s.pbuf.read k
  /-- the outgoing bytes are the same -/
  outgoing_eq : ∀ k, k < s.olen → u.obuf.read k = s.obuf.read k
  /-- the buffers are canonical -/
  canonical : s.pbuf.wf = true ∧ s.obuf.wf = true ∧ u.pbuf.wf = true ∧ u.obuf.wf = true

/-- A well-formed frame in the source's words (R83): a start marker, bytes of at most 0x7F, one end marker. -/
def FrameWellFormed (bytes : List Byte) : Prop :=
  ∃ body, bytes = startMarker :: (body ++ [endMarker]) ∧ ∀ x ∈ body, x ≤ 0x7F#8

/-- The elements a step may write: R32's, with the buffers byte by byte, and the model's own fields. -/
inductive Element where
  | sst | plen | pbuf (i : Nat) | olen | obuf (i : Nat) | taddr | codecOut | cerr | pending | sent
  | params | txAnswers | inputs | draws
deriving DecidableEq, Repr

/-- The element holds the same in both states. -/
def Element.Same : Element → State → State → Prop
  | .sst, s, t => t.sst = s.sst
  | .plen, s, t => t.plen = s.plen
  | .pbuf i, s, t => t.pbuf.read i = s.pbuf.read i
  | .olen, s, t => t.olen = s.olen
  | .obuf i, s, t => t.obuf.read i = s.obuf.read i
  | .taddr, s, t => t.taddr = s.taddr
  | .codecOut, s, t => t.codecOut = s.codecOut
  | .cerr, s, t => t.cerr = s.cerr
  | .pending, s, t => t.pending = s.pending
  | .sent, s, t => t.sent = s.sent
  | .params, s, t => t.params = s.params
  | .txAnswers, s, t => t.txAnswers = s.txAnswers
  | .inputs, s, t => t.inputs = s.inputs
  | .draws, s, t => t.draws = s.draws

/-- What the offer of one byte may write: nothing outside a scan but the transport's own pending bytes (R32, R151). -/
def offerMayWrite (s : State) (e : Element) : Bool :=
  match s.sst with
  | .s0 => (e ∈ [Element.sst, Element.pending])
  | .s1 => (e ∈ [Element.sst, Element.pending])
  | .s2 => (e ∈ [Element.sst, Element.pbuf s.plen, Element.plen, Element.pending])
  | .idle => (e ∈ [Element.pending])
  | .done => (e ∈ [Element.pending])
  | .abort => (e ∈ [Element.pending])
  | .short => (e ∈ [Element.pending])
  | .ovf => (e ∈ [Element.pending])

/-- Whether R32's table names the element for the row, in the state the row runs in. The frame rows, which R32 does not
list, write what the steps they are write: a frame command, or the offer of a byte (log entry 6). -/
def mayWrite (s : State) (e : Element) : Instr → Bool
  | .nop _ _ => (e ∈ [Element.cerr])
  | .outClear _ _ => if s.params.framer then (e ∈ [Element.olen, Element.cerr]) else (e ∈ [Element.cerr])
  | .outPush _ _ =>
    if s.params.framer ∧ s.olen < s.params.outMax then (e ∈ [Element.obuf s.olen, Element.olen, Element.cerr]) else (e ∈ [Element.cerr])
  | .frameConfig _ _ => if s.params.framer then (e ∈ [Element.sent, Element.txAnswers, Element.cerr]) else (e ∈ [Element.cerr])
  | .frameWrite _ _ => if s.params.framer then (e ∈ [Element.sent, Element.txAnswers, Element.cerr]) else (e ∈ [Element.cerr])
  | .frameRead _ _ => if s.params.framer then (e ∈ [Element.sent, Element.txAnswers, Element.taddr, Element.cerr]) else (e ∈ [Element.cerr])
  | .scanStart _ _ => if scanning s.sst then (e ∈ [Element.cerr]) else (e ∈ [Element.sst, Element.plen, Element.cerr])
  | .pack _ _ => (e ∈ [Element.codecOut, Element.cerr])
  | .unpack _ _ => (e ∈ [Element.codecOut, Element.cerr])
  | .reservedOp9 _ _ => (e ∈ [Element.cerr])
  | .reservedOpA _ _ => (e ∈ [Element.cerr])
  | .reservedOpB _ _ => (e ∈ [Element.cerr])
  | .reservedOpC _ _ => (e ∈ [Element.cerr])
  | .reservedOpD _ _ => (e ∈ [Element.cerr])
  | .reservedOpE _ _ => (e ∈ [Element.cerr])
  | .reservedOpF _ _ => (e ∈ [Element.cerr])
  | .reservedRsv _ _ _ _ => (e ∈ [Element.cerr])
  | .frameI2cConfig => if s.params.framer then (e ∈ [Element.sent, Element.txAnswers, Element.cerr]) else (e ∈ [Element.cerr])
  | .frameReqWrite _ _ => if s.params.framer then (e ∈ [Element.sent, Element.txAnswers, Element.cerr]) else (e ∈ [Element.cerr])
  | .frameReqRead _ _ => if s.params.framer then (e ∈ [Element.sent, Element.txAnswers, Element.taddr, Element.cerr]) else (e ∈ [Element.cerr])
  | .frameReply _ _ _ => offerMayWrite s e
  | .frameReportFirmware _ => offerMayWrite s e
  | .rxS0Start => (e ∈ [Element.sst, Element.pending])
  | .rxS0Discard _ => (e ∈ [Element.pending])
  | .rxS1Tag => (e ∈ [Element.sst, Element.pending])
  | .rxS1Discard _ => (e ∈ [Element.pending])
  | .rxS2End => (e ∈ [Element.sst, Element.pending])
  | .rxS2EndShort => (e ∈ [Element.sst, Element.pending])
  | .rxS2Append _ => (e ∈ [Element.pbuf s.plen, Element.plen, Element.pending])
  | .rxS2Overflow _ => (e ∈ [Element.sst, Element.pending])
  | .rxNotAccepted _ => false
  | .rxErr => if scanning s.sst then (e ∈ [Element.sst]) else false
  | .reset waiting =>
    match e with
    | .sst => true
    | .plen => true
    | .pbuf _ => true
    | .olen => true
    | .obuf _ => true
    | .taddr => true
    | .codecOut => true
    | .cerr => true
    | .sent => waiting.isSome
    | .pending => false
    | .params => false
    | .txAnswers => false
    | .inputs => false
    | .draws => true

/-- The rows of host command words (R70). -/
def isCommand (i : Instr) : Prop := ∃ w : CmdWord, encode i = .cmd w

/-- The rows of inbound bytes (R87). -/
def isInbound (i : Instr) : Prop := ∃ byte : Byte, encode i = .rxByte byte

/-- The three frame commands (R123 to R125). -/
def isFrameCommand (i : Instr) : Prop := ∃ a b, i = .frameConfig a b ∨ i = .frameWrite a b ∨ i = .frameRead a b

end Sys2Proof.Machine

namespace Sys2Proof

/-- Whether the scanner's state meets the row's condition in the decode table (R87); rows that are no inbound byte
have none. -/
def Instr.selectable (v : ScanView) : Instr → Bool
  | .rxS0Start => v.sst = .s0
  | .rxS0Discard _ => v.sst = .s0
  | .rxS1Tag => v.sst = .s1
  | .rxS1Discard _ => v.sst = .s1
  | .rxS2End => v.sst = .s2 ∧ 4 ≤ v.plen
  | .rxS2EndShort => v.sst = .s2 ∧ v.plen < 4
  | .rxS2Append _ => v.sst = .s2 ∧ v.plen < v.payloadMax
  | .rxS2Overflow _ => v.sst = .s2 ∧ v.payloadMax ≤ v.plen
  | .rxNotAccepted _ => v.sst ≠ .s0 ∧ v.sst ≠ .s1 ∧ v.sst ≠ .s2
  | _ => true

end Sys2Proof
end

