-- ==== Sys2Proof/Certificates/Slice0/Obligations.lean ====
section
/-! DEFINITION. The statements for the provers. Each docstring says what is stated; OBLIGATIONS.json names the rules of
spec/ it rests on. -/

open Sys2Proof Sys2Proof.Machine

/-- State.reset has SST = IDLE, PLEN = 0, OLEN = 0, TADDR = 0x00, CODEC_OUT = 0x0000, CERR = OK, and STATUS
reads 0x0000. (R33) -/
def Obligations.ResetStateHoldsTheResetValues : Prop :=
  State.reset.sst = .idle ∧ sstCode State.reset.sst = 0#3 ∧ State.reset.plen = 0 ∧ State.reset.olen = 0 ∧
  State.reset.taddr = 0x00#8 ∧ State.reset.codecOut = 0x0000#16 ∧
  State.reset.cerr = .ok ∧ cerrCode State.reset.cerr = 0#4 ∧ readStatus State.reset = 0x0000#16

/-- State.reset meets State.Inv. It rests on the parameters 64, 16 and framer built in, which are the model's
choice (log entry 1), and on the empty buffers (log entry 5). (10_state.md section 6, 00_scope.md section 4) -/
def Obligations.InvariantHoldsAtReset : Prop :=
  State.reset.Inv

/-- In every state, whatever command word waits on the transport or coincides with it, RESET completes: SST =
IDLE, PLEN = 0, OLEN = 0, TADDR = 0, CODEC_OUT = 0, CERR = OK, STATUS reads 0; the pending inbound bytes stay;
what was emitted stays emitted, followed only by a prefix of the abandoned frame; and then no inbound byte is
accepted. That the event carries the waiting word and the number of its frame's bytes that have left is the
model's inference from R240 (log entry 9, DEDUCED). (R240, R241, R33, R205) -/
def Obligations.ResetEventSetsEveryElement : Prop :=
  ∀ (waiting : Option (CmdWord × Nat)) (s : State), ∃ t, exec (.reset waiting) s = .next t ∧
    t.sst = .idle ∧ t.plen = 0 ∧ t.olen = 0 ∧ t.taddr = 0x00#8 ∧ t.codecOut = 0x0000#16 ∧ t.cerr = .ok ∧
    readStatus t = 0x0000#16 ∧ t.pending = s.pending ∧ t.params = s.params ∧ t.txAnswers = s.txAnswers ∧
    t.inputs = s.inputs ∧ (waiting = none → t.sent = s.sent) ∧
    (∀ w taken, waiting = some (w, taken) →
      t.sent = s.sent ++ (commandFrame (decodeCmd w) s).take taken) ∧
    (∀ byte later, t.pending = byte :: later → decodeRx t.scanView byte = .rxNotAccepted byte)

/-- For every frame command word in a block with a framer, and every prefix of the frame that command sends,
there is a reset event after which exactly that prefix has been emitted. That the event carries the waiting word
and the number of its frame's bytes that have left is the model's inference from R240 (log entry 9, DEDUCED).
(R240, R124, R125, R123) -/
def Obligations.ResetAdmitsEveryPrefixOfAWaitingFrame : Prop :=
  ∀ (s : State) (w : CmdWord) (front : List Byte), s.params.framer = true → isFrameCommand (decodeCmd w) →
    front <+: commandFrame (decodeCmd w) s → ∃ taken t, exec (.reset (some (w, taken))) s = .next t ∧
      t.sent = s.sent ++ front

/-- For every byte b, unpack(pack(b)) = zext_15(b) and unpack8(pack(b)) = b. (R103) -/
def Obligations.UnpackInvertsPack : Prop :=
  ∀ b : Byte, unpack (packLow b) (packHigh b) = b.setWidth 15 ∧ unpack8 (packLow b) (packHigh b) = b

/-- For all 8-bit l and h, bit 7 set or not: unpack(l, h) is the bitwise OR of l and 128*h, at most 0x7FFF, and
unpack8(l, h) is its low 8 bits, l | ((h & 1) << 7); so (0x81, 0x01) gives 0x0081 and not 0x0101, and
unpack8(0x48, 0x02) is 0x48. Both outputs of pack are at most 0x7F and no marker; high7 is 0 for b <= 0x7F and 1
above; on units of at most 0x7F unpack is l + 128*h, at most 0x3FFF, and injective; unpack(0x80, 0x00) =
unpack(0x00, 0x01) = 0x0080. (R101, R102, R104) -/
def Obligations.PackAndUnpackRanges : Prop :=
  (∀ l h : Byte, (unpack l h).toNat = l.toNat ||| 128 * h.toNat ∧ (unpack l h).toNat ≤ 0x7FFF ∧
    (unpack8 l h).toNat = (l.toNat ||| 128 * h.toNat) % 256 ∧ unpack8 l h = l ||| ((h &&& 0x01#8) <<< 7)) ∧
  unpack 0x81#8 0x01#8 = 0x0081#15 ∧ unpack8 0x81#8 0x01#8 = 0x81#8 ∧
  unpack 0x48#8 0x02#8 = 0x0148#15 ∧ unpack8 0x48#8 0x02#8 = 0x48#8 ∧
  (∀ b : Byte, packLow b ≤ 0x7F#8 ∧ packHigh b ≤ 0x7F#8 ∧
    packLow b ≠ startMarker ∧ packLow b ≠ endMarker ∧ packHigh b ≠ startMarker ∧ packHigh b ≠ endMarker ∧
    (b ≤ 0x7F#8 → packHigh b = 0x00#8) ∧ (0x80#8 ≤ b → packHigh b = 0x01#8)) ∧
  (∀ l h : Byte, l ≤ 0x7F#8 → h ≤ 0x7F#8 →
    (unpack l h).toNat = l.toNat + 128 * h.toNat ∧ unpack l h ≤ 0x3FFF#15) ∧
  (∀ l h l' h' : Byte, l ≤ 0x7F#8 → h ≤ 0x7F#8 → l' ≤ 0x7F#8 → h' ≤ 0x7F#8 →
    unpack l h = unpack l' h' → l = l' ∧ h = h') ∧
  unpack 0x80#8 0x00#8 = 0x0080#15 ∧ unpack 0x00#8 0x01#8 = 0x0080#15

/-- A word with OP 0 and RSV 0 is NOP whatever A and B; NOP completes with CERR = OK, STATUS.CERR reading 0, and
no other change, during a scan too. (R105) -/
def Obligations.NopOnlyRecordsOk : Prop :=
  ∀ (a b : Byte) (s : State), decodeCmd (cmdWord b a 0x0#4 0x0#4) = .nop a b ∧
    exec (.nop a b) s = .next { s with cerr := .ok } ∧
    (readStatus { s with cerr := .ok }).extractLsb' 4 4 = 0#4

/-- PACK completes with CODEC_OUT[7:0] = low7(A), CODEC_OUT[15:8] = high7(A); UNPACK completes with
CODEC_OUT[14:0] = unpack(A, B) and CODEC_OUT[15] = 0; both record OK and change nothing else; their words have
OP 7 and OP 8 with RSV 0. (R106, R107) -/
def Obligations.PackAndUnpackCommandsWriteCodecOut : Prop :=
  ∀ (a b : Byte) (s : State),
    (decodeCmd (cmdWord b a 0x0#4 0x7#4) = .pack a b ∧ ∃ v : BitVec 16,
      exec (.pack a b) s = .next { s with codecOut := v, cerr := .ok } ∧
      v.extractLsb' 0 8 = packLow a ∧ v.extractLsb' 8 8 = packHigh a) ∧
    (decodeCmd (cmdWord b a 0x0#4 0x8#4) = .unpack a b ∧ ∃ v : BitVec 16,
      exec (.unpack a b) s = .next { s with codecOut := v, cerr := .ok } ∧
      v.extractLsb' 0 15 = unpack a b ∧ v.extractLsb' 15 1 = 0#1)

/-- In a block with a framer, OUT_CLEAR (OP 1, RSV 0, A and B ignored) completes with OLEN = 0 and CERR = OK and
no other change: OBUF's bytes are not erased. (R121) -/
def Obligations.OutClearEmptiesTheOutgoingBuffer : Prop :=
  ∀ (a b : Byte) (s : State), s.params.framer = true →
    decodeCmd (cmdWord b a 0x0#4 0x1#4) = .outClear a b ∧
    exec (.outClear a b) s = .next { s with olen := 0, cerr := .ok }

/-- In a block with a framer, OUT_PUSH with OLEN below OUT_MAX completes with OBUF[OLEN] = A, every other byte
of OBUF as before, OLEN one higher, CERR = OK and nothing else changed; with OLEN = OUT_MAX it completes with
CERR = OUT_OVF and no other change. (R122) -/
def Obligations.OutPushAppendsOneByte : Prop :=
  ∀ (a b : Byte) (s : State), s.params.framer = true →
    decodeCmd (cmdWord b a 0x0#4 0x2#4) = .outPush a b ∧
    (s.olen < s.params.outMax → s.obuf.wf = true → ∃ t, exec (.outPush a b) s = .next t ∧
      t = { s with obuf := t.obuf, olen := s.olen + 1, cerr := .ok } ∧
      t.obuf.read s.olen = a ∧ ∀ i, i ≠ s.olen → t.obuf.read i = s.obuf.read i) ∧
    (s.olen = s.params.outMax → exec (.outPush a b) s = .next { s with cerr := .outOvf })

/-- EmitFrame(s): when the transport accepts, all bytes are emitted in order and the code is OK; on a write
error exactly a prefix is emitted and the code is TX_ERR, and every prefix is possible; without an answer the
command waits. Nothing else changes. That the answers stand in a list of which each is used up, and that a wait
is the named fault, is the model's choice (log entries 3 and 4). (R120) -/
def Obligations.EmitFrameOutcomes : Prop :=
  ∀ (bytes : List Byte) (s : State) (later : List TxAnswer),
    (s.txAnswers = .accept :: later →
      emitFrame bytes s = .next { s with sent := s.sent ++ bytes, cerr := .ok, txAnswers := later }) ∧
    (∀ taken, s.txAnswers = .error taken :: later → ∃ front, front <+: bytes ∧
      emitFrame bytes s = .next { s with sent := s.sent ++ front, cerr := .txErr, txAnswers := later }) ∧
    (∀ front, front <+: bytes → ∃ taken, emitFrame bytes { s with txAnswers := .error taken :: later } =
      .next { s with sent := s.sent ++ front, cerr := .txErr, txAnswers := later }) ∧
    (s.txAnswers = [] → emitFrame bytes s = .fault .waitsForTransport)

/-- The configuration frame is F0 78 00 00 F7; a request frame for address a and outgoing bytes o is F0 76 a
mode, then lo(o[j]) at 4+2j and hi(o[j]) at 5+2j, then F7 at 4+2n; a reply frame for A, R, d is F0 77 A[6:0]
A[13:7] R[6:0] R[13:7], lo(d[j]) at 6+2j, hi(d[j]) at 7+2j, F7 at 6+2k; their lengths are 5, 5+2n and 7+2k,
three more than the reply's payload of 4+2k. (R76, R77, R78, R79, R80) -/
def Obligations.FrameLayouts : Prop :=
  configFrame = [0xF0#8, 0x78#8, 0x00#8, 0x00#8, 0xF7#8] ∧
  (∀ (addr mode : Byte) (out : List Byte), mode = 0x00#8 ∨ mode = 0x08#8 →
    (requestFrame mode addr out).length = 5 + 2 * out.length ∧
    (requestFrame mode addr out).take 4 = [0xF0#8, 0x76#8, addr, mode] ∧
    (∀ j, ∀ h : j < out.length, (requestFrame mode addr out)[4 + 2 * j]? = some (packLow out[j]) ∧
      (requestFrame mode addr out)[5 + 2 * j]? = some (packHigh out[j])) ∧
    (requestFrame mode addr out)[4 + 2 * out.length]? = some 0xF7#8) ∧
  (∀ (addr reg : BitVec 14) (data : List Byte),
    (replyPayload addr reg data).length = 4 + 2 * data.length ∧
    (replyFrame addr reg data).length = (replyPayload addr reg data).length + 3 ∧
    (replyFrame addr reg data).take 6 = [0xF0#8, 0x77#8,
      (addr.extractLsb' 0 7).setWidth 8, (addr.extractLsb' 7 7).setWidth 8,
      (reg.extractLsb' 0 7).setWidth 8, (reg.extractLsb' 7 7).setWidth 8] ∧
    (∀ j, ∀ h : j < data.length, (replyFrame addr reg data)[6 + 2 * j]? = some (packLow data[j]) ∧
      (replyFrame addr reg data)[7 + 2 * j]? = some (packHigh data[j])) ∧
    (replyFrame addr reg data)[6 + 2 * data.length]? = some 0xF7#8)

/-- The list of outgoing bytes has OLEN entries and its j-th entry is OBUF[j]. (R52, R124, R125) -/
def Obligations.OutgoingBytesAreObufInIndexOrder : Prop :=
  ∀ s : State, (outgoing s).length = s.olen ∧
    ∀ j, j < s.olen → (outgoing s)[j]? = some (s.obuf.read j)

/-- In a block with a framer: each frame command completes with its frame appended to the outbound stream and
CERR = OK when the transport accepts, and with a prefix of it and CERR = TX_ERR on a write error; FRAME_READ
also sets TADDR to A in both cases; nothing else of the block changes; their words have OP 3, 4 and 5 with RSV
0. (R123, R124, R125) -/
def Obligations.FrameCommandsSendTheirFrames : Prop :=
  ∀ (a b : Byte) (s : State) (later : List TxAnswer), s.params.framer = true →
    decodeCmd (cmdWord b a 0x0#4 0x3#4) = .frameConfig a b ∧
    decodeCmd (cmdWord b a 0x0#4 0x4#4) = .frameWrite a b ∧
    decodeCmd (cmdWord b a 0x0#4 0x5#4) = .frameRead a b ∧
    (s.txAnswers = .accept :: later →
      exec (.frameConfig a b) s = .next { s with
        sent := s.sent ++ [0xF0#8, 0x78#8, 0x00#8, 0x00#8, 0xF7#8], cerr := .ok, txAnswers := later } ∧
      exec (.frameWrite a b) s = .next { s with
        sent := s.sent ++ (0xF0#8 :: 0x76#8 :: a :: 0x00#8 :: (packPairs (outgoing s) ++ [0xF7#8])),
        cerr := .ok, txAnswers := later } ∧
      exec (.frameRead a b) s = .next { s with
        sent := s.sent ++ (0xF0#8 :: 0x76#8 :: a :: 0x08#8 :: (packPairs (outgoing s) ++ [0xF7#8])),
        taddr := a, cerr := .ok, txAnswers := later }) ∧
    (∀ taken, s.txAnswers = .error taken :: later →
      exec (.frameConfig a b) s = .next { s with
        sent := s.sent ++ [0xF0#8, 0x78#8, 0x00#8, 0x00#8, 0xF7#8].take taken, cerr := .txErr, txAnswers := later } ∧
      exec (.frameWrite a b) s = .next { s with
        sent := s.sent ++ (0xF0#8 :: 0x76#8 :: a :: 0x00#8 :: (packPairs (outgoing s) ++ [0xF7#8])).take taken,
        cerr := .txErr, txAnswers := later } ∧
      exec (.frameRead a b) s = .next { s with
        sent := s.sent ++ (0xF0#8 :: 0x76#8 :: a :: 0x08#8 :: (packPairs (outgoing s) ++ [0xF7#8])).take taken,
        taddr := a, cerr := .txErr, txAnswers := later })

/-- In a block with a framer, FRAME_CONFIG, FRAME_WRITE and FRAME_READ give no next state while the transport
neither accepts nor reports an error: the step waits. That a wait is the fault waitsForTransport, and that no
answer is an empty list, is the model's way to say so (log entries 3 and 4). (R120, R12) -/
def Obligations.FrameCommandsWaitForTheTransport : Prop :=
  ∀ (i : Instr) (s : State), isFrameCommand i → s.params.framer = true → s.txAnswers = [] →
    exec i s = .fault .waitsForTransport

/-- FRAME_I2C_CONFIG, FRAME_REQ_WRITE and FRAME_REQ_READ, in a block with a framer, complete with the frame of
R76, R77 or R78 emitted and CERR = OK when the transport accepts, with a prefix and CERR = TX_ERR on a write
error, and wait without an answer; without a framer they record ILLEGAL. FRAME_REQ_READ sets TADDR to its
address, and where the outgoing bytes are OBUF's each row does what its frame command does. That these rows are
read as the frame commands' steps, the list of answers and the fault that is a wait are the model's choices (log
entries 3, 4, 6 and 13). (R76, R77, R78, R120, R123, R124, R125) -/
def Obligations.SentFrameRowsComplete : Prop :=
  (∀ (i : Instr) (bytes : List Byte) (s u : State) (later : List TxAnswer),
    (i = .frameI2cConfig ∧ bytes = configFrame ∧ u = s) ∨
    (∃ addr out, i = .frameReqWrite addr out ∧ bytes = requestFrame writeMode addr out ∧ u = s) ∨
    (∃ addr out, i = .frameReqRead addr out ∧ bytes = requestFrame readMode addr out ∧ u = { s with taddr := addr }) →
    (s.params.framer = true → s.txAnswers = .accept :: later →
      exec i s = .next { u with sent := s.sent ++ bytes, cerr := .ok, txAnswers := later }) ∧
    (∀ taken, s.params.framer = true → s.txAnswers = .error taken :: later →
      exec i s = .next { u with sent := s.sent ++ bytes.take taken, cerr := .txErr, txAnswers := later }) ∧
    (s.params.framer = true → s.txAnswers = [] → exec i s = .fault .waitsForTransport) ∧
    (s.params.framer = false → exec i s = .next { s with cerr := .illegal })) ∧
  (∀ (a b : Byte) (s : State), exec .frameI2cConfig s = exec (.frameConfig a b) s ∧
    exec (.frameReqWrite a (outgoing s)) s = exec (.frameWrite a b) s ∧
    exec (.frameReqRead a (outgoing s)) s = exec (.frameRead a b) s)

/-- Without a framer OUT_CLEAR, OUT_PUSH, FRAME_CONFIG, FRAME_WRITE and FRAME_READ complete with CERR = ILLEGAL
and change nothing else, whatever the transport would answer (log entry 13). (41_framer.md, opening paragraph,
R72) -/
def Obligations.WithoutFramerItsCommandsAreReserved : Prop :=
  ∀ (a b : Byte) (s : State), s.params.framer = false →
    exec (.outClear a b) s = .next { s with cerr := .illegal } ∧
    exec (.outPush a b) s = .next { s with cerr := .illegal } ∧
    exec (.frameConfig a b) s = .next { s with cerr := .illegal } ∧
    exec (.frameWrite a b) s = .next { s with cerr := .illegal } ∧
    exec (.frameRead a b) s = .next { s with cerr := .illegal }

/-- For either mode byte and any outgoing bytes, the request frame meets R83's invariant if and only if the raw
address byte is at most 0x7F; the configuration frame always does, and byte 2 of a request frame is the address
unchanged. (R83, R127, 90_conflicts.md C2) -/
def Obligations.RequestFramesAreWellFormedBelow0x80 : Prop :=
  FrameWellFormed configFrame ∧
  ∀ (addr mode : Byte) (out : List Byte), mode = writeMode ∨ mode = readMode →
    (FrameWellFormed (requestFrame mode addr out) ↔ addr ≤ 0x7F#8) ∧
    (requestFrame mode addr out)[2]? = some addr

/-- In a block with a framer, when the transport answers, every frame command completes in every scanner state;
OLEN and every byte of OBUF, SST, PLEN and every byte of PBUF, and the pending inbound bytes are as before. That
the answers are the list txAnswers is the model's choice (log entry 3). (R126, R128) -/
def Obligations.FrameCommandsKeepBuffersAndScanner : Prop :=
  ∀ (i : Instr) (s : State), isFrameCommand i → s.params.framer = true → s.txAnswers ≠ [] →
    ∃ t, exec i s = .next t ∧ t.olen = s.olen ∧ (∀ k, t.obuf.read k = s.obuf.read k) ∧
      t.sst = s.sst ∧ t.plen = s.plen ∧ (∀ k, t.pbuf.read k = s.pbuf.read k) ∧ t.pending = s.pending ∧
      t.codecOut = s.codecOut ∧ (t.taddr = s.taddr ∨ ∃ a b, i = .frameRead a b ∧ t.taddr = a)

/-- SCAN_START (OP 6, RSV 0, A and B ignored): in S0, S1 and S2 it completes with CERR = BUSY and no other
change; in every other state it completes with SST = S0, PLEN = 0, CERR = OK and no other change, after which
DONE_LVL and MATCH are 0 and the result port is refused. (R150) -/
def Obligations.ScanStartArmsTheScanner : Prop :=
  ∀ (a b : Byte) (s : State), decodeCmd (cmdWord b a 0x0#4 0x6#4) = .scanStart a b ∧
    (s.sst = .s0 ∨ s.sst = .s1 ∨ s.sst = .s2 → exec (.scanStart a b) s = .next { s with cerr := .busy }) ∧
    (s.sst ≠ .s0 → s.sst ≠ .s1 → s.sst ≠ .s2 → ∃ t, exec (.scanStart a b) s = .next t ∧
      t = { s with sst := .s0, plen := 0, cerr := .ok } ∧ doneLvl t = false ∧ matchFlag t = false ∧
      readReplyAddr t = .error .resultNotDone)

/-- With byte b offered: in S0, 0xF0 gives S1 and any other byte is discarded; in S1, 0x77 gives S2 and any
other byte, a start or end marker too, is discarded. Each is the row the decode table gives the byte; the byte
leaves the transport and nothing else changes. (R152, R153, R154, R155) -/
def Obligations.SeekingRowsTakeOneByte : Prop :=
  ∀ (s : State) (byte : Byte) (later : List Byte), s.pending = byte :: later →
    (s.sst = .s0 → byte = 0xF0#8 → decodeRx s.scanView byte = .rxS0Start ∧
      exec .rxS0Start s = .next { s with pending := later, sst := .s1 }) ∧
    (s.sst = .s0 → byte ≠ 0xF0#8 → decodeRx s.scanView byte = .rxS0Discard byte ∧
      exec (.rxS0Discard byte) s = .next { s with pending := later }) ∧
    (s.sst = .s1 → byte = 0x77#8 → decodeRx s.scanView byte = .rxS1Tag ∧
      exec .rxS1Tag s = .next { s with pending := later, sst := .s2 }) ∧
    (s.sst = .s1 → byte ≠ 0x77#8 → decodeRx s.scanView byte = .rxS1Discard byte ∧
      exec (.rxS1Discard byte) s = .next { s with pending := later })

/-- In S2 with byte b offered: 0xF7 gives DONE when PLEN >= 4, with MATCH then R166's value, and SHORT with
MATCH 0 when PLEN < 4; any other byte is stored at PBUF[PLEN] and counted when PLEN < PAYLOAD_MAX, every other
byte of PBUF as before, and gives OVF unstored when PLEN = PAYLOAD_MAX. DONE_LVL becomes 1 in the three ends.
Each is the row the decode table gives the byte; the byte leaves the transport and nothing else changes. (R156,
R157, R158, R159) -/
def Obligations.PayloadRowsTakeOneByte : Prop :=
  ∀ (s : State) (byte : Byte) (later : List Byte), s.pending = byte :: later → s.sst = .s2 →
    (byte = 0xF7#8 → 4 ≤ s.plen → decodeRx s.scanView byte = .rxS2End ∧ ∃ t, exec .rxS2End s = .next t ∧
      t = { s with pending := later, sst := .done } ∧ doneLvl t = true ∧
      matchFlag t = decide (replyAddr s = s.taddr.setWidth 15)) ∧
    (byte = 0xF7#8 → s.plen < 4 → decodeRx s.scanView byte = .rxS2EndShort ∧ ∃ t, exec .rxS2EndShort s = .next t ∧
      t = { s with pending := later, sst := .short } ∧ doneLvl t = true ∧ matchFlag t = false ∧
      readReplyAddr t = .error .resultNotDone) ∧
    (byte ≠ 0xF7#8 → s.plen < s.params.payloadMax → decodeRx s.scanView byte = .rxS2Append byte ∧
      (s.pbuf.wf = true → ∃ t, exec (.rxS2Append byte) s = .next t ∧
        t = { s with pending := later, pbuf := t.pbuf, plen := s.plen + 1 } ∧
        t.pbuf.read s.plen = byte ∧ ∀ i, i ≠ s.plen → t.pbuf.read i = s.pbuf.read i)) ∧
    (byte ≠ 0xF7#8 → s.plen = s.params.payloadMax → decodeRx s.scanView byte = .rxS2Overflow byte ∧
      ∃ t, exec (.rxS2Overflow byte) s = .next t ∧
        t = { s with pending := later, sst := .ovf } ∧ doneLvl t = true)

/-- In IDLE, DONE, ABORT, SHORT and OVF the decode table gives an offered byte the row RX_NOT_ACCEPTED, and that
row completes with no change at all. (R151, R87) -/
def Obligations.BytesOutsideAScanStayPending : Prop :=
  ∀ (s : State) (byte : Byte) (later : List Byte), s.pending = byte :: later → scanning s.sst = false →
    decodeRx s.scanView byte = .rxNotAccepted byte ∧ exec (.rxNotAccepted byte) s = .next s

/-- RX_ERR completes in every state: in S0, S1 and S2 with SST = ABORT, DONE_LVL then 1 and no other change; in
the other states with no change. (R160) -/
def Obligations.ReadErrorAbortsAScan : Prop :=
  ∀ s : State,
    (s.sst = .s0 ∨ s.sst = .s1 ∨ s.sst = .s2 → ∃ t, exec .rxErr s = .next t ∧ t = { s with sst := .abort } ∧
      doneLvl t = true ∧ t.cerr = s.cerr ∧ readReplyAddr t = .error .resultNotDone) ∧
    (s.sst ≠ .s0 → s.sst ≠ .s1 → s.sst ≠ .s2 → exec .rxErr s = .next s)

/-- FRAME_REPLY and FRAME_REPORT_FIRMWARE complete in every state: their bytes stand behind those already
pending, and then the oldest pending byte is offered, which is the row the decode table gives it; while not
scanning the block does not change. That these rows are read as the delivery before an offered byte is the
model's choice (log entries 6 and 17). (R34, R61, R79, R82, R87, R151) -/
def Obligations.ArrivingFramesWaitAtTheTransport : Prop :=
  ∀ (i : Instr) (bytes : List Byte) (s : State),
    (∃ addr reg data, i = .frameReply addr reg data ∧ bytes = replyFrame addr reg data) ∨
    (∃ rest, i = .frameReportFirmware rest ∧ bytes = 0xF0#8 :: 0x79#8 :: rest) →
    (∃ t, exec i s = .next t) ∧
    (scanning s.sst = false → exec i s = .next { s with pending := s.pending ++ bytes }) ∧
    (∀ byte later, s.pending ++ bytes = byte :: later →
      exec i s = exec (decodeRx s.scanView byte) { s with pending := byte :: later })

/-- For every state whose transport holds a byte, there is exactly one inbound row that answers a next state,
and it is the one the decode table gives the byte; all other inbound rows are refused by the name
rowNotSelected, which is the model's choice for a row that the decode table does not select (log entry 7). (R61,
R87, R151) -/
def Obligations.ExactlyOneRowTakesAnOfferedByte : Prop :=
  ∀ (s : State) (byte : Byte) (later : List Byte), s.pending = byte :: later →
    isInbound (decodeRx s.scanView byte) ∧ (∃ t, exec (decodeRx s.scanView byte) s = .next t) ∧
    ∀ i, isInbound i → i ≠ decodeRx s.scanView byte → exec i s = .refused .rowNotSelected

/-- When the transport is to offer a byte and holds none, and when no event is left, the step has no next state:
it waits. The named fault is the model's way to say that no step is enabled (log entry 4). (R170, R12, R151) -/
def Obligations.ScannerWaitsWithoutAByte : Prop :=
  ∀ s : State, (∀ rest, s.inputs = .offer :: rest → s.pending = [] → step s = .fault .waitsForByte) ∧
    (s.inputs = [] → step s = .fault .waitsForEvent)

/-- From a terminal scanner state, every row other than SCAN_START and RESET that completes leaves SST, PLEN and
every byte of PBUF as they were, and takes no byte from the transport: what was pending is still there, in
front. (R161) -/
def Obligations.TerminalStatesLastUntilScanStartOrReset : Prop :=
  ∀ (i : Instr) (s t : State), s.sst = .done ∨ s.sst = .abort ∨ s.sst = .short ∨ s.sst = .ovf →
    (∀ a b, i ≠ .scanStart a b) → (∀ w, i ≠ .reset w) → exec i s = .next t →
    t.sst = s.sst ∧ t.plen = s.plen ∧ (∀ k, t.pbuf.read k = s.pbuf.read k) ∧ s.pending <+: t.pending ∧
    (i = .rxErr → t = s)

/-- Outside DONE every read of the result port is refused; in DONE it gives REPLY_ADDR, REPLY_REG and DCOUNT,
gives REPLY_DATA(k) for k < DCOUNT and refuses it for k >= DCOUNT; and no completing row other than SCAN_START
and RESET changes what it gives in DONE. (R167) -/
def Obligations.ResultPortMeaning : Prop :=
  (∀ s : State, s.sst ≠ .done → readReplyAddr s = .error .resultNotDone ∧
    readReplyReg s = .error .resultNotDone ∧ readDcount s = .error .resultNotDone ∧
    ∀ k, readReplyData s k = .error .resultNotDone) ∧
  (∀ s : State, s.sst = .done → readReplyAddr s = .ok (unpack (s.pbuf.read 0) (s.pbuf.read 1)) ∧
    readReplyReg s = .ok (unpack (s.pbuf.read 2) (s.pbuf.read 3)) ∧ readDcount s = .ok ((s.plen - 4) / 2) ∧
    (∀ k, k < (s.plen - 4) / 2 →
      readReplyData s k = .ok (unpack8 (s.pbuf.read (4 + 2 * k)) (s.pbuf.read (5 + 2 * k)))) ∧
    (∀ k, (s.plen - 4) / 2 ≤ k → readReplyData s k = .error .dataIndexOutOfRange)) ∧
  (∀ (i : Instr) (s t : State), s.sst = .done → (∀ a b, i ≠ .scanStart a b) → (∀ w, i ≠ .reset w) →
    exec i s = .next t → readReplyAddr t = readReplyAddr s ∧ readReplyReg t = readReplyReg s ∧
      readDcount t = readDcount s ∧ ∀ k, readReplyData t k = readReplyData s k)

/-- STATUS[2:0] is SST, [3] is DONE_LVL = (SST >= 4), which is 1 exactly in DONE, ABORT, SHORT and OVF, [7:4] is
CERR, [8] is MATCH, and [15:9] read 0, in every state. The numbers are R21's and R201's: IDLE 0, S0 1, S1 2, S2
3, DONE 4, ABORT 5, SHORT 6, OVF 7, and OK 0, ILLEGAL 1, BUSY 2, OUT_OVF 3, TX_ERR 4. (R29, R30) -/
def Obligations.StatusLayout : Prop :=
  ∀ s : State, (readStatus s).extractLsb' 0 3 = sstCode s.sst ∧
    (readStatus s).getLsbD 3 = decide (4 ≤ (sstCode s.sst).toNat) ∧
    ((readStatus s).getLsbD 3 = true ↔ s.sst = .done ∨ s.sst = .abort ∨ s.sst = .short ∨ s.sst = .ovf) ∧
    (readStatus s).extractLsb' 4 4 = cerrCode s.cerr ∧
    (readStatus s).getLsbD 8 = matchFlag s ∧ (readStatus s).extractLsb' 9 7 = 0#7 ∧
    readStatus State.reset = 0x0000#16 ∧
    (sstCode .idle = 0#3 ∧ sstCode .s0 = 1#3 ∧ sstCode .s1 = 2#3 ∧ sstCode .s2 = 3#3 ∧ sstCode .done = 4#3 ∧
      sstCode .abort = 5#3 ∧ sstCode .short = 6#3 ∧ sstCode .ovf = 7#3) ∧
    (cerrCode .ok = 0#4 ∧ cerrCode .illegal = 1#4 ∧ cerrCode .busy = 2#4 ∧ cerrCode .outOvf = 3#4 ∧
      cerrCode .txErr = 4#4)

/-- MATCH is 1 exactly in DONE with REPLY_ADDR equal to zext_15(TADDR); and in a block with a framer a
completing FRAME_READ of address A, accepted or failed, leaves MATCH saying whether the reply already held is
A's. (R166, R246, R125) -/
def Obligations.MatchFollowsTheTargetAddress : Prop :=
  (∀ s : State, matchFlag s = true ↔
    s.sst = .done ∧ (unpack (s.pbuf.read 0) (s.pbuf.read 1)).toNat = s.taddr.toNat) ∧
  (∀ (a b : Byte) (s t : State), s.params.framer = true → s.sst = .done → exec (.frameRead a b) s = .next t →
    (matchFlag t = true ↔ (replyAddr s).toNat = a.toNat))

/-- Presented as the next command, every word whose RSV field is not 0, whatever its OP, and every word with OP
9 to F completes with CERR = ILLEGAL and no other change, in every state. (R72, R73) -/
def Obligations.IllegalWordsOnlyRecordIllegal : Prop :=
  ∀ (s : State) (w : CmdWord) (rest : List Event), s.inputs = .cmd w :: rest →
    w.extractLsb' 4 4 ≠ 0#4 ∨ 9 ≤ (w.extractLsb' 0 4).toNat →
    step s = .next { s with inputs := rest, cerr := .illegal } ∧ cerrCode .illegal = 1#4

/-- RESERVED_OP_9 to RESERVED_OP_F and RESERVED_RSV complete in every state with CERR = ILLEGAL and no other
change. (R72, R73) -/
def Obligations.ReservedRowsComplete : Prop :=
  ∀ (a b : Byte) (s : State),
    exec (.reservedOp9 a b) s = .next { s with cerr := .illegal } ∧
    exec (.reservedOpA a b) s = .next { s with cerr := .illegal } ∧
    exec (.reservedOpB a b) s = .next { s with cerr := .illegal } ∧
    exec (.reservedOpC a b) s = .next { s with cerr := .illegal } ∧
    exec (.reservedOpD a b) s = .next { s with cerr := .illegal } ∧
    exec (.reservedOpE a b) s = .next { s with cerr := .illegal } ∧
    exec (.reservedOpF a b) s = .next { s with cerr := .illegal } ∧
    ∀ rsv op, exec (.reservedRsv rsv op a b) s = .next { s with cerr := .illegal }

/-- Presented as the next command in any state, every 24-bit word either completes, using up that one event, or
is a frame command of a block with a framer whose write the transport has not answered. The fault that is a wait
is the model's way to say so (log entry 4). (R70, R71, R72, R73, R74, R120) -/
def Obligations.EveryCommandWordRunsOrWaits : Prop :=
  ∀ (s : State) (w : CmdWord) (rest : List Event), s.inputs = .cmd w :: rest →
    (∃ t, step s = .next t ∧ t.inputs = rest) ∨
    (step s = .fault .waitsForTransport ∧ s.txAnswers = [] ∧ s.params.framer = true ∧ isFrameCommand (decodeCmd w))

/-- For every command row that completes: CERR is BUSY exactly for SCAN_START while scanning, OUT_OVF exactly
for OUT_PUSH with OBUF full, TX_ERR exactly for a frame command whose write failed, ILLEGAL exactly for a
reserved word or, without a framer, a framer command, and OK otherwise. Two clauses rest on the model's own
inferences, both DEDUCED: that OP 1 to 5 record ILLEGAL in a block without a framer is read from the opening of
41_framer.md, by which they act as R72 says (log entry 13), while R201's own list has only OP 9 to F and RSV;
and that OUT_OVF is recorded from OLEN = OUT_MAX upwards, where R201 and R122 write OLEN = OUT_MAX, which no
reachable state exceeds (log entry 10). That the transport's answers are the list txAnswers is the model's
choice (log entry 3). (R201, R203, R204, R122, R120, R72, R73, 41_framer.md, opening paragraph) -/
def Obligations.CompletionCodesSayTheirCause : Prop :=
  ∀ (i : Instr) (s t : State), isCommand i → exec i s = .next t →
    (t.cerr = .busy ↔ (∃ a b, i = .scanStart a b) ∧ scanning s.sst = true) ∧
    (t.cerr = .outOvf ↔ (∃ a b, i = .outPush a b) ∧ s.params.framer = true ∧ s.params.outMax ≤ s.olen) ∧
    (t.cerr = .txErr ↔ isFrameCommand i ∧ s.params.framer = true ∧ ∃ taken later, s.txAnswers = .error taken :: later) ∧
    (t.cerr = .illegal ↔ (∃ a b, i = .reservedOp9 a b ∨ i = .reservedOpA a b ∨ i = .reservedOpB a b ∨
        i = .reservedOpC a b ∨ i = .reservedOpD a b ∨ i = .reservedOpE a b ∨ i = .reservedOpF a b) ∨
      (∃ rsv op a b, i = .reservedRsv rsv op a b) ∨
      (s.params.framer = false ∧ (isFrameCommand i ∨ ∃ a b, i = .outClear a b ∨ i = .outPush a b)))

/-- For every row, state and element, the buffers byte by byte: if the row completes and R32's table does not
name the element for that row in that state, the element is as before. The parameters and the events are never
written; the frame rows, which R32 does not list, write what the frame command or the offered byte writes (log
entry 6). (R32, R28, R21) -/
def Obligations.StepsWriteOnlyTheirElements : Prop :=
  ∀ (i : Instr) (s t : State) (e : Element), exec i s = .next t → mayWrite s e i = false → e.Same s t

/-- Whenever a step completes, what it adds behind the outbound history is determined by its row: a command word
adds the whole frame that command sends in that state when it records OK, and otherwise a prefix of that frame,
which is empty unless it records TX_ERR; a command read by its frame adds that frame in the same way; a reset
adds the prefix of the waiting frame that it names; and every other step adds nothing. Commands that send no
frame have an empty frame. Two parts rest on the model and not on the spec's words: the clauses on a command
read by its frame and on a delivery of bytes are the model's choice of events (log entry 6, DESIGN CHOICE); and
that a reset carries the waiting command and the number of its frame's bytes that have left is the model's
inference from R240, which admits any prefix (log entry 9, DEDUCED). (R60, R58, R120, R240, R241) -/
def Obligations.OutboundBytesAreOnlyAppended : Prop :=
  ∀ s t : State, step s = .next t →
    (∀ w, nextSignal s = .ok (.cmd w) →
      (t.cerr = .ok → t.sent = s.sent ++ commandFrame (decodeCmd w) s) ∧
      ∃ front, front <+: commandFrame (decodeCmd w) s ∧ t.sent = s.sent ++ front ∧ (front ≠ [] → t.cerr = .ok ∨ t.cerr = .txErr)) ∧
    (∀ bytes, nextSignal s = .ok (.txFrame bytes) →
      (t.cerr = .ok → t.sent = s.sent ++ bytes) ∧
      ∃ front, front <+: bytes ∧ t.sent = s.sent ++ front ∧ (front ≠ [] → t.cerr = .ok ∨ t.cerr = .txErr)) ∧
    (∀ waiting, nextSignal s = .ok (.reset waiting) → t.sent = s.sent ++ abandonedPrefix waiting s) ∧
    (∀ byte, nextSignal s = .ok (.rxByte byte) → t.sent = s.sent) ∧
    (∀ bytes, nextSignal s = .ok (.line bytes) → t.sent = s.sent) ∧
    (nextSignal s = .ok .rxErr → t.sent = s.sent)

/-- Whenever a step completes: the offer of a byte takes exactly that byte, the oldest pending one, while
scanning, and nothing otherwise; a delivery puts all its bytes, in order, behind those pending and then takes
exactly the oldest one while scanning and nothing otherwise; and every other step leaves the pending bytes as
they are. The clause on a delivery, that one step puts the delivered bytes behind the pending ones and then
takes the oldest, is the model's choice (log entry 6, DESIGN CHOICE), not the spec's words. (R61, R151, R58,
R34) -/
def Obligations.InboundBytesAreTakenInOrder : Prop :=
  ∀ s t : State, step s = .next t →
    (∀ byte, nextSignal s = .ok (.rxByte byte) →
      s.pending = byte :: s.pending.tail ∧ t.pending = if scanning s.sst then s.pending.tail else s.pending) ∧
    (∀ bytes, nextSignal s = .ok (.line bytes) →
      s.pending ++ bytes ≠ [] ∧
      t.pending = if scanning s.sst then (s.pending ++ bytes).tail else s.pending ++ bytes) ∧
    ((∀ byte, nextSignal s ≠ .ok (.rxByte byte)) → (∀ bytes, nextSignal s ≠ .ok (.line bytes)) →
      t.pending = s.pending)

/-- If in one state a frame command and an inbound row both complete, then each also completes after the other,
and both orders end in the same state. (R62, R128, R205) -/
def Obligations.FramerAndScannerCommute : Prop :=
  ∀ (f i : Instr) (s t u : State), isFrameCommand f → isInbound i → exec f s = .next t → exec i s = .next u →
    ∃ r, exec i t = .next r ∧ exec f u = .next r

/-- When the oldest event's signal decodes to a row, the step is exec of that row after the event is used up;
the signal is the command word, the oldest pending byte, the read error or the reset. The events that are read
as frames are the model's choice (log entry 6): a command read by its frame presents the frame it sends, or its
word where it sends none, and a delivery presents its bytes, which, being none of the far end's frames, arrive
as they are before the oldest pending byte is offered. (R11, R87, R151) -/
def Obligations.StepRunsTheDecodedInstruction : Prop :=
  (∀ (s : State) (sig : Signal) (i : Instr), nextSignal s = .ok sig → decode s.scanView sig = .ok i →
    step s = exec i { s with inputs := s.inputs.tail }) ∧
  (∀ (s : State) (rest : List Event),
    (∀ w, s.inputs = .cmd w :: rest → nextSignal s = .ok (.cmd w)) ∧
    (∀ byte later, s.inputs = .offer :: rest → s.pending = byte :: later → nextSignal s = .ok (.rxByte byte)) ∧
    (s.inputs = .rxErr :: rest → nextSignal s = .ok .rxErr) ∧
    (∀ waiting, s.inputs = .reset waiting :: rest → nextSignal s = .ok (.reset waiting)) ∧
    (∀ w, s.inputs = .frame w :: rest →
      (commandFrame (decodeCmd w) s = [] → nextSignal s = .ok (.cmd w)) ∧
      (commandFrame (decodeCmd w) s ≠ [] → nextSignal s = .ok (.txFrame (commandFrame (decodeCmd w) s)))) ∧
    (∀ bytes, s.inputs = .deliver bytes :: rest → nextSignal s = .ok (.line bytes))) ∧
  (∀ (s : State) (bytes : List Byte) (e : DecodeError), nextSignal s = .ok (.line bytes) →
    decode s.scanView (.line bytes) = .error e →
    (∀ byte later, s.pending ++ bytes = byte :: later → step s =
      exec (decodeRx s.scanView byte) { s with inputs := s.inputs.tail, pending := byte :: later }) ∧
    (s.pending ++ bytes = [] → step s = .fault .waitsForByte))

/-- 0x000404 is FRAME_WRITE 0x04; 0x013408 is UNPACK 0x34, 0x01; 0xABCD00 is NOP; 0x000016 is illegal by RSV and
no SCAN_START; 0x00000F is reserved; 0xF0 in S0 is the start marker; the source's write-request vector is
FRAME_REQ_WRITE. (R70, R71, 95_test_vectors.md section 1.3) -/
def Obligations.SpecWordsDecode : Prop :=
  decodeCmd 0x000404#24 = .frameWrite 0x04#8 0x00#8 ∧ decodeCmd 0x013408#24 = .unpack 0x34#8 0x01#8 ∧
  decodeCmd 0xABCD00#24 = .nop 0xCD#8 0xAB#8 ∧ decodeCmd 0x000016#24 = .reservedRsv 1#4 6#4 0#8 0#8 ∧
  decodeCmd 0x00000F#24 = .reservedOpF 0#8 0#8 ∧ decodeRx ⟨.s0, 0, 64⟩ 0xF0#8 = .rxS0Start ∧
  decodeTxFrame [0xF0#8, 0x76#8, 0x04#8, 0x00#8, 0x01#8, 0x00#8, 0x05#8, 0x00#8, 0x02#8, 0x00#8, 0xF7#8] =
    .ok (.frameReqWrite 0x04#8 [0x01#8, 0x05#8, 0x02#8])

/-- For every well-formed row with every value of its operands, read in a scanner state that meets the row's
condition, decode of encode is the row. (30_encoding.md sections 1, 3 and 7, R70, R76, R77, R78, R79, R87) -/
def Obligations.DecodeInvertsEncode : Prop :=
  ∀ (v : ScanView) (i : Instr), i.wellFormed = true → i.selectable v = true → decode v (encode i) = .ok i

/-- For every command word w, decodeCmd w is a well-formed row and encoding it gives w back, so no bit is
dropped and no two words share a row with its operands. That a row keeps the operand bytes its command ignores
is the model's choice (log entry 11). (R70, R71, R72, R73, R74) -/
def Obligations.CommandWordsAreNeverConfused : Prop :=
  ∀ w : CmdWord, (decodeCmd w).wellFormed = true ∧ encode (decodeCmd w) = .cmd w

/-- From every state that meets State.Inv (legal parameters, PLEN and OLEN within their buffers, both buffers
canonical and within their capacity, no payload before S2, PLEN as DONE, SHORT and OVF require, and TADDR and
OLEN at reset without a framer), a step that completes gives a state that meets it. (R22, R23, R24, R25, R156,
R157, R159, R6, R7) -/
def Obligations.StepKeepsTheInvariant : Prop :=
  ∀ s t : State, s.Inv → step s = .next t → t.Inv

/-- Two states that differ at most in the bytes of PBUF at or above PLEN, those of OBUF at or above OLEN and the
count of free draws, with canonical buffers: when a step completes from one, it completes from the other, and
the two next states differ at most in the same way; codec_out, status and, in states where DONE has PLEN at
least 4, every read of the result port are the same. So the bytes reset leaves unspecified (free values, log
entry 5) are not observed. (R23, R25, R33, R51, R52, R167) -/
def Obligations.UnspecifiedBufferBytesAreNeverObserved : Prop :=
  ∀ s u : State, s.Alike u →
    (∀ t, step s = .next t → ∃ v, step u = .next v ∧ t.Alike v) ∧ readCodecOut u = readCodecOut s ∧
    ((s.sst = .done → 4 ≤ s.plen) → readStatus u = readStatus s ∧ readReplyAddr u = readReplyAddr s ∧
      readReplyReg u = readReplyReg s ∧ readDcount u = readDcount s ∧ ∀ k, readReplyData u k = readReplyData s k)

/-- From S0 with PLEN 0 and PBUF canonical, when the transport holds F0, garbage without 0x77, F0, 77, a payload
of 4 to PAYLOAD_MAX bytes without 0xF7, and F7, and offers them one by one, the scan ends in DONE with PLEN the
payload's length and PBUF the payload; the bytes after the end marker stay pending, and nothing else changes.
(R169) -/
def Obligations.ScanRecoversFromDesync : Prop :=
  ∀ (s : State) (garbage data later : List Byte) (rest : List Event),
    s.sst = .s0 → s.plen = 0 → s.pbuf.wf = true → (0x77#8 : Byte) ∉ garbage → (0xF7#8 : Byte) ∉ data →
    4 ≤ data.length → data.length ≤ s.params.payloadMax →
    s.pending = 0xF0#8 :: (garbage ++ (0xF0#8 :: 0x77#8 :: (data ++ (0xF7#8 :: later)))) →
    s.inputs = List.replicate (garbage.length + data.length + 4) Event.offer ++ rest →
    ∃ t, runSteps (garbage.length + data.length + 4) s = .next t ∧
      t = { s with sst := .done, plen := data.length, pbuf := t.pbuf, pending := later, inputs := rest } ∧
      (∀ k, ∀ h : k < data.length, t.pbuf.read k = data[k])

/-- From S0 with PLEN 0 and PBUF canonical, when the transport holds the reply frame for address A, register R
and data d, with 4 + 2k bytes of payload fitting PBUF, and offers it byte by byte, the scan ends in DONE with
REPLY_ADDR = A, REPLY_REG = R, DCOUNT = k, REPLY_DATA = d, and MATCH says whether A is TADDR. (R79, R162, R163,
R164, R165, R166, 95_test_vectors.md section 1.4) -/
def Obligations.WellFormedReplyIsDecoded : Prop :=
  ∀ (s : State) (addr reg : BitVec 14) (data later : List Byte) (rest : List Event),
    s.sst = .s0 → s.plen = 0 → s.pbuf.wf = true → 4 + 2 * data.length ≤ s.params.payloadMax →
    s.pending = replyFrame addr reg data ++ later →
    s.inputs = List.replicate (7 + 2 * data.length) Event.offer ++ rest →
    ∃ t, runSteps (7 + 2 * data.length) s = .next t ∧ t.sst = .done ∧ t.pending = later ∧
      readReplyAddr t = .ok (addr.setWidth 15) ∧ readReplyReg t = .ok (reg.setWidth 15) ∧
      readDcount t = .ok data.length ∧ (∀ k, ∀ h : k < data.length, readReplyData t k = .ok data[k]) ∧
      (matchFlag t = true ↔ addr.toNat = s.taddr.toNat)

/-- The block has a framer and is not scanning. With OBUF canonical, outgoing bytes that fit OBUF and a
transport that accepts two writes, the commands of transact(addr, out, buffer) complete with exactly the write-
request frame and then the read-request frame for addr and out emitted, OBUF holding out, TADDR = addr, the
scanner in S0 with PLEN 0, and CERR = OK. Without outgoing bytes, whatever OBUF holds, and with a transport that
accepts one write, the commands are OUT_CLEAR, FRAME_READ and SCAN_START, and they complete with exactly the
read-request frame for addr and no bytes emitted, OLEN 0, TADDR = addr, the scanner in S0 with PLEN 0, and CERR
= OK. The definitions issue and transactCommands are the model's reading of the host (log entry 15). (R213,
R214, R126, R85, R121, R124, R125) -/
def Obligations.TransactSendsBothRequestFrames : Prop :=
  ∀ (s : State) (addr : Byte) (later : List TxAnswer), s.params.framer = true → scanning s.sst = false →
    (∀ out : List Byte, s.obuf.wf = true → out.length ≤ s.params.outMax → s.txAnswers = .accept :: .accept :: later →
      ∃ t, issue (transactCommands addr (some out) true) s = .next t ∧
        t.sent = s.sent ++ requestFrame writeMode addr out ++ requestFrame readMode addr out ∧
        outgoing t = out ∧ t.taddr = addr ∧ t.sst = .s0 ∧ t.plen = 0 ∧ t.cerr = .ok ∧ t.txAnswers = later ∧
        t.pending = s.pending ∧ t.codecOut = s.codecOut ∧ t.params = s.params) ∧
    transactCommands addr none true = [.outClear 0#8 0#8, .frameRead addr 0#8, .scanStart 0#8 0#8] ∧
    (s.txAnswers = .accept :: later →
      ∃ t, issue (transactCommands addr none true) s = .next t ∧
        t.sent = s.sent ++ requestFrame readMode addr [] ∧
        t.olen = 0 ∧ outgoing t = [] ∧ t.taddr = addr ∧ t.sst = .s0 ∧ t.plen = 0 ∧ t.cerr = .ok ∧ t.txAnswers = later ∧
        t.pending = s.pending ∧ t.codecOut = s.codecOut ∧ t.params = s.params)

/-- While DONE_LVL is 0 the host waits; ABORT is a transport error, SHORT and OVF a malformed reply; DONE with
MATCH 1 copies REPLY_DATA(0) to REPLY_DATA(DCOUNT-1); DONE with MATCH 0 follows HOST_MISMATCH_POLICY; and with
neither outgoing bytes nor a buffer no command is issued and the transaction succeeds in the state it found. The
definitions verdict and transact are the model's reading of the host (log entry 15). (R214, R215, R216, R8) -/
def Obligations.HostVerdictFollowsTheScan : Prop :=
  (∀ (policy : MismatchPolicy) (s : State), (doneLvl s = false → verdict policy s = .waiting) ∧
    (s.sst = .abort → verdict policy s = .transportError) ∧
    (s.sst = .short ∨ s.sst = .ovf → verdict policy s = .malformedReply) ∧
    (matchFlag s = true → ∃ data, verdict policy s = .copy data ∧ data.length = dcount s ∧
      ∀ k, k < dcount s → data[k]? = some (replyData s k)) ∧
    (s.sst = .done → matchFlag s = false →
      (policy = .source → verdict policy s = .nothingCopied) ∧ (policy = .rescan → verdict policy s = .rescan) ∧
      (policy = .error → verdict policy s = .mismatchError))) ∧
  ∀ (policy : MismatchPolicy) (addr : Byte) (n : Nat) (s : State), transactCommands addr none false = [] ∧
    transact policy addr none false n s = .ended .success s ∧ Verdict.success.reportsSuccess = true

/-- By the oldest event, in every state: a command word, however it is read, is exec of that word's command; an
offer is the row the decode table gives the oldest pending byte, and a delivery the same with the delivered
bytes behind those pending; a read error is RX_ERR; a reset is RESET; each in the state without that event. With
no byte to offer, and with no event, there is no step. That a command can be read by the frame it sends, and
that bytes are delivered with the offer of a byte, is the model's choice (log entry 6), and so are the events
and the faults that are waits (log entries 2 and 4). (R11, R87, R151, R123, R124, R125) -/
def Obligations.EveryStepIsOneOfFourKinds : Prop :=
  ∀ (s : State) (rest : List Event),
    (∀ w, s.inputs = .cmd w :: rest ∨ s.inputs = .frame w :: rest →
      step s = exec (decodeCmd w) { s with inputs := rest }) ∧
    (∀ bytes, (s.inputs = .offer :: rest ∧ bytes = []) ∨ s.inputs = .deliver bytes :: rest →
      (∀ byte later, s.pending ++ bytes = byte :: later →
        step s = exec (decodeRx s.scanView byte) { s with inputs := rest, pending := byte :: later }) ∧
      (s.pending ++ bytes = [] → step s = .fault .waitsForByte)) ∧
    (s.inputs = .rxErr :: rest → step s = exec .rxErr { s with inputs := rest }) ∧
    (∀ waiting, s.inputs = .reset waiting :: rest → step s = exec (.reset waiting) { s with inputs := rest }) ∧
    (s.inputs = [] → step s = .fault .waitsForEvent)

/-- No step is refused, in any state: it answers a next state, or waits for an event, for a byte, or for the
transport's answer. The faults that are waits are the model's way to say so (log entry 4). (R12, R70, R87, R120,
R206) -/
def Obligations.NoStepIsRefused : Prop :=
  ∀ s : State, (∃ t, step s = .next t) ∨ (step s = .fault .waitsForEvent ∧ s.inputs = []) ∨
    (step s = .fault .waitsForByte ∧ s.pending = []) ∨
    (step s = .fault .waitsForTransport ∧ s.txAnswers = [] ∧ s.params.framer = true)

/-- The block has a framer. With OBUF canonical and outgoing bytes that fit it: when the transport fails the
write request, transact ends with a transport error, a prefix of the write frame emitted, TADDR, the scanner and
the payload as they were, whatever reply an earlier scan left; when it accepts the write and fails the read
request, transact ends with a transport error, the write frame and a prefix of the read frame emitted, TADDR =
addr, and no scan started; when no buffer is given and it accepts the write, transact ends with success and the
write frame emitted. Without outgoing bytes, whatever OBUF holds: when the transport fails the read request,
transact ends with a transport error, a prefix of the read frame for no bytes emitted, OLEN 0, TADDR = addr, and
no scan started. The definition transact is the model's reading of the host (log entry 15). (R213, R214, R120,
R125) -/
def Obligations.TransactFailsOnAWriteError : Prop :=
  ∀ (policy : MismatchPolicy) (s : State) (addr : Byte) (n taken : Nat) (later : List TxAnswer),
    s.params.framer = true →
    (∀ out : List Byte, s.obuf.wf = true → out.length ≤ s.params.outMax →
      (∀ wanted, s.txAnswers = .error taken :: later → ∃ t,
        transact policy addr (some out) wanted n s = .ended .transportError t ∧
        t.sent = s.sent ++ (requestFrame writeMode addr out).take taken ∧ t.taddr = s.taddr ∧ t.sst = s.sst ∧
        t.plen = s.plen ∧ t.pbuf = s.pbuf ∧ t.cerr = .txErr ∧ t.txAnswers = later) ∧
      (s.txAnswers = .accept :: .error taken :: later → ∃ t,
        transact policy addr (some out) true n s = .ended .transportError t ∧
        t.sent = s.sent ++ requestFrame writeMode addr out ++ (requestFrame readMode addr out).take taken ∧
        t.taddr = addr ∧ t.sst = s.sst ∧ t.plen = s.plen ∧ t.pbuf = s.pbuf ∧ t.cerr = .txErr ∧ t.txAnswers = later) ∧
      (s.txAnswers = .accept :: later → ∃ t, transact policy addr (some out) false n s = .ended .success t ∧
        t.sent = s.sent ++ requestFrame writeMode addr out ∧ t.sst = s.sst ∧ t.cerr = .ok ∧ outgoing t = out)) ∧
    (s.txAnswers = .error taken :: later → ∃ t,
      transact policy addr none true n s = .ended .transportError t ∧
      t.sent = s.sent ++ (requestFrame readMode addr []).take taken ∧ t.olen = 0 ∧ t.taddr = addr ∧ t.sst = s.sst ∧
      t.plen = s.plen ∧ t.pbuf = s.pbuf ∧ t.cerr = .txErr ∧ t.txAnswers = later)

/-- While DONE_LVL is 0 the host's wait takes the machine's next step; in DONE with MATCH 0 under RESCAN it
issues SCAN_START, which completes in S0 with PLEN 0, and waits again; in every other state with DONE_LVL 1 it
ends with the verdict and issues nothing. The definition awaitReply and its bound on the steps are the model's
reading of the host (log entry 15). (R8, R214, R215, R150) -/
def Obligations.HostWaitsAndRescans : Prop :=
  ∀ (policy : MismatchPolicy) (n : Nat) (s : State),
    (∀ t, doneLvl s = false → step s = .next t → awaitReply policy (n + 1) s = awaitReply policy n t) ∧
    (∀ f, doneLvl s = false → step s = .fault f → awaitReply policy (n + 1) s = .waits f) ∧
    (s.sst = .done → matchFlag s = false →
      awaitReply .rescan (n + 1) s = awaitReply .rescan n { s with sst := .s0, plen := 0, cerr := .ok }) ∧
    (doneLvl s = true → verdict policy s ≠ .rescan → awaitReply policy (n + 1) s = .ended (verdict policy s) s)

/-- The block has a framer and is not scanning, PBUF is canonical, and the transport holds a well-formed reply
of address A that fits PBUF and offers it byte by byte. Either there are outgoing bytes that fit OBUF, which is
canonical, and the transport accepts two writes: then transact for address addr emits the write-request and the
read-request frame with these bytes. Or there are none, and the transport accepts one write: then it emits the
read-request frame with no bytes. In both cases, when A is addr, transact ends with the reply's data bytes
copied and success; when A is another address it ends with nothing copied and success under SOURCE and with an
error under ERROR, and under RESCAN, the same frames emitted, it waits again in S0. The definition transact is
the model's reading of the host (log entry 15). (R8, R79, R213, R214, R215, R165, R166) -/
def Obligations.TransactDeliversTheReply : Prop :=
  ∀ (policy : MismatchPolicy) (s : State) (addr : Byte) (sender reg : BitVec 14) (out : Option (List Byte))
    (frames data later : List Byte) (answers : List TxAnswer) (rest : List Event),
    s.params.framer = true → s.pbuf.wf = true → 4 + 2 * data.length ≤ s.params.payloadMax → scanning s.sst = false →
    (∃ bytes, out = some bytes ∧ s.obuf.wf = true ∧ bytes.length ≤ s.params.outMax ∧
      s.txAnswers = .accept :: .accept :: answers ∧
      frames = requestFrame writeMode addr bytes ++ requestFrame readMode addr bytes) ∨
    (out = none ∧ s.txAnswers = .accept :: answers ∧ frames = requestFrame readMode addr []) →
    s.pending = replyFrame sender reg data ++ later →
    s.inputs = List.replicate (7 + 2 * data.length) Event.offer ++ rest →
    ∃ t, t.sent = s.sent ++ frames ∧ t.pending = later ∧
      (sender.toNat = addr.toNat → transact policy addr out true (8 + 2 * data.length) s = .ended (.copy data) t) ∧
      (sender.toNat ≠ addr.toNat →
        (policy = .source → transact policy addr out true (8 + 2 * data.length) s = .ended .nothingCopied t) ∧
        (policy = .error → transact policy addr out true (8 + 2 * data.length) s = .ended .mismatchError t) ∧
        (policy = .rescan → ∃ u, transact policy addr out true (8 + 2 * data.length) s = .running u ∧
          u.sent = s.sent ++ frames ∧ u.sst = .s0 ∧ u.plen = 0 ∧ u.pending = later))
end

