-- ==== Sys2Proof/Laws/Decode.lean ====
section
/-! SUPPORT. The fields of a command word, the packed units, and frames read back. -/

namespace Sys2Proof

/-- Bit `i` of a command word, by the field it lies in (R70). -/
theorem getLsbD_cmdWord (b a : Byte) (rsv op : BitVec 4) (i : Nat) :
    (cmdWord b a rsv op).getLsbD i =
      if i < 4 then op.getLsbD i else if i < 8 then rsv.getLsbD (i - 4)
      else if i < 16 then a.getLsbD (i - 8) else b.getLsbD (i - 16) := by
  simp only [cmdWord, BitVec.getLsbD_setWidth, BitVec.getLsbD_append]
  by_cases h4 : i < 4
  · simp [h4, show i < 24 by omega]
  · by_cases h8 : i < 8
    · simp [h4, h8, show i < 24 by omega, show i - 4 < 4 by omega]
    · by_cases h16 : i < 16
      · simp [h4, h8, h16, show i < 24 by omega, show ¬ i - 4 < 4 by omega, show i - 8 < 8 by omega,
          show i - 4 - 4 = i - 8 by omega]
      · by_cases h24 : i < 24
        · simp [h4, h8, h16, h24, show ¬ i - 4 < 4 by omega, show ¬ i - 4 - 4 < 8 by omega,
            show i - 4 - 4 - 8 = i - 16 by omega]
        · simp [h4, h8, h16, h24, BitVec.getLsbD_of_ge b (i - 16) (by omega)]

@[simp] theorem cmdWord_op (b a : Byte) (rsv op : BitVec 4) : (cmdWord b a rsv op).extractLsb' 0 4 = op := by
  refine BitVec.eq_of_getLsbD_eq fun i hi => ?_
  simp [getLsbD_cmdWord, hi]

@[simp] theorem cmdWord_rsv (b a : Byte) (rsv op : BitVec 4) : (cmdWord b a rsv op).extractLsb' 4 4 = rsv := by
  refine BitVec.eq_of_getLsbD_eq fun i hi => ?_
  simp [getLsbD_cmdWord, hi, show 4 + i < 8 by omega]

@[simp] theorem cmdWord_a (b a : Byte) (rsv op : BitVec 4) : (cmdWord b a rsv op).extractLsb' 8 8 = a := by
  refine BitVec.eq_of_getLsbD_eq fun i hi => ?_
  simp [getLsbD_cmdWord, hi, show ¬ 8 + i < 4 by omega, show 8 + i < 16 by omega]

@[simp] theorem cmdWord_b (b a : Byte) (rsv op : BitVec 4) : (cmdWord b a rsv op).extractLsb' 16 8 = b := by
  refine BitVec.eq_of_getLsbD_eq fun i hi => ?_
  simp [getLsbD_cmdWord, hi, show ¬ 16 + i < 4 by omega, show ¬ 16 + i < 8 by omega]

/-- A command word is made of its four fields (R70). -/
theorem cmdWord_fields (w : CmdWord) :
    cmdWord (w.extractLsb' 16 8) (w.extractLsb' 8 8) (w.extractLsb' 4 4) (w.extractLsb' 0 4) = w := by
  refine BitVec.eq_of_getLsbD_eq fun i hi => ?_
  simp only [getLsbD_cmdWord, BitVec.getLsbD_extractLsb']
  by_cases h4 : i < 4
  · simp [h4]
  · by_cases h8 : i < 8
    · simp [h4, h8, show i - 4 < 4 by omega, show 4 + (i - 4) = i by omega]
    · by_cases h16 : i < 16
      · simp [h4, h8, h16, show i - 8 < 8 by omega, show 8 + (i - 8) = i by omega]
      · simp [h4, h8, h16, show i - 16 < 8 by omega, show 16 + (i - 16) = i by omega]

/-- `low7` has bit 7 clear (R104(a)). -/
theorem packLow_lt (b : Byte) : packLow b < 0x80#8 := by
  have h : (packLow b).toNat ≤ 127 := by
    simp only [packLow, BitVec.toNat_and]
    exact Nat.and_le_right
  simp only [BitVec.lt_def, BitVec.toNat_ofNat]
  omega

/-- `high7` is bit 7 of the byte (R100). -/
theorem packHigh_toNat (b : Byte) : (packHigh b).toNat = b.toNat / 128 := by
  have : b.toNat >>> 7 &&& 127 = b.toNat >>> 7 % 2 ^ 7 := Nat.and_two_pow_sub_one_eq_mod _ 7
  simp only [packHigh, BitVec.toNat_and, BitVec.toNat_ushiftRight, BitVec.toNat_ofNat]
  rw [show 127 % 2 ^ 8 = 127 from rfl, this, Nat.shiftRight_eq_div_pow]
  omega

theorem packHigh_lt (b : Byte) : packHigh b < 0x02#8 := by
  simp only [BitVec.lt_def, packHigh_toNat, BitVec.toNat_ofNat]
  omega

/-- Packed pairs ended by the end marker are read back (R53, R103). -/
theorem readPairs_packPairs (l : List Byte) : readPairs (packPairs l ++ [endMarker]) = some l := by
  have unpack8_pack : ∀ b : Byte, unpack8 (packLow b) (packHigh b) = b := by decide
  induction l with
  | nil => rfl
  | cons b rest ih => simp [packPairs, readPairs, packLow_lt, packHigh_lt, ih, unpack8_pack]

theorem decodeTxFrame_write (addr : Byte) (out : List Byte) :
    decodeTxFrame (requestFrame writeMode addr out) = .ok (.frameReqWrite addr out) := by
  simp [decodeTxFrame, requestFrame, readPairs_packPairs, i2cRequest, i2cConfig, writeMode]

theorem decodeTxFrame_read (addr : Byte) (out : List Byte) :
    decodeTxFrame (requestFrame readMode addr out) = .ok (.frameReqRead addr out) := by
  simp [decodeTxFrame, requestFrame, readPairs_packPairs, i2cRequest, i2cConfig, writeMode, readMode]

/-- A byte pair that packing can give is the packing of the byte it stands for (R100, R102). -/
theorem pack_unpack8 {l h : Byte} (hl : l < 0x80#8) (hh : h < 0x02#8) :
    packLow (unpack8 l h) = l ∧ packHigh (unpack8 l h) = h := by
  have h01 : h = 0x00#8 ∨ h = 0x01#8 := by revert hh; revert h; decide
  rcases h01 with rfl | rfl <;> (revert hl; revert l; decide)

/-- Only packed pairs ended by the end marker are read (R53). -/
theorem readPairs_some {bytes out : List Byte} (h : readPairs bytes = some out) :
    bytes = packPairs out ++ [endMarker] := by
  induction bytes using readPairs.induct generalizing out with
  | case1 => cases h
  | case2 => cases h; rfl
  | case3 e he => simp [readPairs, he] at h
  | case4 l u rest hlu ih =>
    simp only [readPairs, hlu, and_self, if_true, Option.map_eq_some_iff] at h
    obtain ⟨more, hm, rfl⟩ := h
    simp [packPairs, pack_unpack8 hlu.1 hlu.2, ← ih hm]
  | case5 l u rest hlu => simp [readPairs, hlu] at h

/-- Two units below 0x80 are the units of the 14-bit field they stand for (R79, R104(c)). -/
theorem fieldUnits_unpack {l h : Byte} (hl : l < 0x80#8) (hh : h < 0x80#8) :
    fieldUnits ((unpack l h).setWidth 14) = [l, h] := by
  have bit7 : ∀ b : Byte, b < 0x80#8 → b.getLsbD 7 = false := by decide
  have h7 : ∀ (b : Byte) (i : Nat), b < 0x80#8 → ¬ i < 7 → b.getLsbD i = false := by
    intro b i hb hi
    rcases Nat.lt_or_ge i 8 with h8 | h8
    · rw [show i = 7 by omega]; exact bit7 b hb
    · exact BitVec.getLsbD_of_ge b i h8
  have e1 : (((unpack l h).setWidth 14).extractLsb' 0 7).setWidth 8 = l := by
    refine BitVec.eq_of_getLsbD_eq fun i hi => ?_
    by_cases h' : i < 7
    · simp [unpack, h', hi, show i < 14 by omega]
    · simp [h', h7 l i hl h']
  have e2 : (((unpack l h).setWidth 14).extractLsb' 7 7).setWidth 8 = h := by
    refine BitVec.eq_of_getLsbD_eq fun i hi => ?_
    by_cases h' : i < 7
    · simp [unpack, h', hi, show 7 + i < 14 by omega, h7 l (7 + i) hl (by omega),
        show 7 + i - 7 = i by omega]
    · simp [h', h7 h i hh h']
  rw [fieldUnits, e1, e2]

/-- Bytes of the far end that decode are those of the FRAME_REPLY or FRAME_REPORT_FIRMWARE they decode to (R79, R82). -/
theorem decodeLine_ok {bytes : List Byte} {i : Instr} (h : decodeLine bytes = .ok i) :
    (∃ addr reg data, i = .frameReply addr reg data ∧ bytes = replyFrame addr reg data) ∨
    ∃ rest, i = .frameReportFirmware rest ∧ bytes = firmwareFrame rest := by
  unfold decodeLine at h
  repeat' split at h
  all_goals try cases h
  · rename_i tag rest hs ht
    exact .inr ⟨rest, rfl, by rw [firmwareFrame, ← ht, ← Decidable.not_not.mp hs]⟩
  · rename_i start tag hs _ ht _ a0 a1 r0 r1 pairs hb _ data hp
    refine .inl ⟨_, _, data, rfl, ?_⟩
    rw [replyFrame, replyPayload, fieldUnits_unpack hb.1 hb.2.1, fieldUnits_unpack hb.2.2.1 hb.2.2.2, ← ht,
      ← Decidable.not_not.mp hs, readPairs_some hp]
    simp

end Sys2Proof
end

