-- ==== Sys2Proof/Laws/State.lean ====
section
/-! SUPPORT. What each named update of the state does to each field. -/

namespace Sys2Proof.Machine

@[simp] theorem takeByte_sst (s : State) : (takeByte s).sst = s.sst := rfl
@[simp] theorem takeByte_plen (s : State) : (takeByte s).plen = s.plen := rfl
@[simp] theorem takeByte_pbuf (s : State) : (takeByte s).pbuf = s.pbuf := rfl
@[simp] theorem takeByte_olen (s : State) : (takeByte s).olen = s.olen := rfl
@[simp] theorem takeByte_obuf (s : State) : (takeByte s).obuf = s.obuf := rfl
@[simp] theorem takeByte_taddr (s : State) : (takeByte s).taddr = s.taddr := rfl
@[simp] theorem takeByte_codecOut (s : State) : (takeByte s).codecOut = s.codecOut := rfl
@[simp] theorem takeByte_cerr (s : State) : (takeByte s).cerr = s.cerr := rfl
@[simp] theorem takeByte_pending (s : State) : (takeByte s).pending = s.pending.tail := rfl
@[simp] theorem takeByte_sent (s : State) : (takeByte s).sent = s.sent := rfl
@[simp] theorem takeByte_params (s : State) : (takeByte s).params = s.params := rfl
@[simp] theorem takeByte_txAnswers (s : State) : (takeByte s).txAnswers = s.txAnswers := rfl
@[simp] theorem takeByte_inputs (s : State) : (takeByte s).inputs = s.inputs := rfl
@[simp] theorem takeByte_draws (s : State) : (takeByte s).draws = s.draws := rfl

@[simp] theorem arrive_sst (bytes : List Byte) (s : State) : (arrive bytes s).sst = s.sst := rfl
@[simp] theorem arrive_plen (bytes : List Byte) (s : State) : (arrive bytes s).plen = s.plen := rfl
@[simp] theorem arrive_pbuf (bytes : List Byte) (s : State) : (arrive bytes s).pbuf = s.pbuf := rfl
@[simp] theorem arrive_olen (bytes : List Byte) (s : State) : (arrive bytes s).olen = s.olen := rfl
@[simp] theorem arrive_obuf (bytes : List Byte) (s : State) : (arrive bytes s).obuf = s.obuf := rfl
@[simp] theorem arrive_taddr (bytes : List Byte) (s : State) : (arrive bytes s).taddr = s.taddr := rfl
@[simp] theorem arrive_codecOut (bytes : List Byte) (s : State) : (arrive bytes s).codecOut = s.codecOut := rfl
@[simp] theorem arrive_cerr (bytes : List Byte) (s : State) : (arrive bytes s).cerr = s.cerr := rfl
@[simp] theorem arrive_pending (bytes : List Byte) (s : State) : (arrive bytes s).pending = s.pending ++ bytes := rfl
@[simp] theorem arrive_sent (bytes : List Byte) (s : State) : (arrive bytes s).sent = s.sent := rfl
@[simp] theorem arrive_params (bytes : List Byte) (s : State) : (arrive bytes s).params = s.params := rfl
@[simp] theorem arrive_txAnswers (bytes : List Byte) (s : State) : (arrive bytes s).txAnswers = s.txAnswers := rfl
@[simp] theorem arrive_inputs (bytes : List Byte) (s : State) : (arrive bytes s).inputs = s.inputs := rfl
@[simp] theorem arrive_draws (bytes : List Byte) (s : State) : (arrive bytes s).draws = s.draws := rfl

@[simp] theorem dropInput_sst (s : State) : (dropInput s).sst = s.sst := rfl
@[simp] theorem dropInput_plen (s : State) : (dropInput s).plen = s.plen := rfl
@[simp] theorem dropInput_pbuf (s : State) : (dropInput s).pbuf = s.pbuf := rfl
@[simp] theorem dropInput_olen (s : State) : (dropInput s).olen = s.olen := rfl
@[simp] theorem dropInput_obuf (s : State) : (dropInput s).obuf = s.obuf := rfl
@[simp] theorem dropInput_taddr (s : State) : (dropInput s).taddr = s.taddr := rfl
@[simp] theorem dropInput_codecOut (s : State) : (dropInput s).codecOut = s.codecOut := rfl
@[simp] theorem dropInput_cerr (s : State) : (dropInput s).cerr = s.cerr := rfl
@[simp] theorem dropInput_pending (s : State) : (dropInput s).pending = s.pending := rfl
@[simp] theorem dropInput_sent (s : State) : (dropInput s).sent = s.sent := rfl
@[simp] theorem dropInput_params (s : State) : (dropInput s).params = s.params := rfl
@[simp] theorem dropInput_txAnswers (s : State) : (dropInput s).txAnswers = s.txAnswers := rfl
@[simp] theorem dropInput_inputs (s : State) : (dropInput s).inputs = s.inputs.tail := rfl
@[simp] theorem dropInput_draws (s : State) : (dropInput s).draws = s.draws := rfl

@[simp] theorem resetBlock_sst (s : State) : (resetBlock s).sst = .idle := rfl
@[simp] theorem resetBlock_plen (s : State) : (resetBlock s).plen = 0 := rfl
@[simp] theorem resetBlock_pbuf (s : State) :
    (resetBlock s).pbuf = Memory.fill (Config.resetByte (2 * s.draws)) s.params.payloadMax := rfl
@[simp] theorem resetBlock_olen (s : State) : (resetBlock s).olen = 0 := rfl
@[simp] theorem resetBlock_obuf (s : State) :
    (resetBlock s).obuf = Memory.fill (Config.resetByte (2 * s.draws + 1)) s.params.outMax := rfl
@[simp] theorem resetBlock_taddr (s : State) : (resetBlock s).taddr = 0x00#8 := rfl
@[simp] theorem resetBlock_codecOut (s : State) : (resetBlock s).codecOut = 0x0000#16 := rfl
@[simp] theorem resetBlock_cerr (s : State) : (resetBlock s).cerr = .ok := rfl
@[simp] theorem resetBlock_pending (s : State) : (resetBlock s).pending = s.pending := rfl
@[simp] theorem resetBlock_sent (s : State) : (resetBlock s).sent = s.sent := rfl
@[simp] theorem resetBlock_params (s : State) : (resetBlock s).params = s.params := rfl
@[simp] theorem resetBlock_txAnswers (s : State) : (resetBlock s).txAnswers = s.txAnswers := rfl
@[simp] theorem resetBlock_inputs (s : State) : (resetBlock s).inputs = s.inputs := rfl
@[simp] theorem resetBlock_draws (s : State) : (resetBlock s).draws = s.draws + 1 := rfl

end Sys2Proof.Machine
end

