-- ==== Sys2Proof/Laws/Ops.lean ====
section
/-! SUPPORT. What each shared operation can do, said once. -/

namespace Sys2Proof.Machine

theorem complete_next {s t : State} (h : complete s = .next t) : t = { s with cerr := .ok } := by
  cases h; rfl

theorem raiseCmdError_next {code : CErr} {s t : State} (h : raiseCmdError code s = .next t) :
    t = { s with cerr := code } := by
  cases h; rfl

/-- An illegal word records its code and does nothing else. -/
theorem illegalCommand_eq (s : State) : illegalCommand s = .next { s with cerr := .illegal } := rfl

/-- With a framer a framer step is that step. -/
theorem withFramer_on {s : State} (h : s.params.framer = true) (run : Host.Outcome State Fault Refusal) :
    withFramer s run = run := by simp [withFramer, h]

/-- Without a framer a framer step is a reserved word. -/
theorem withFramer_off {s : State} (h : s.params.framer = false) (run : Host.Outcome State Fault Refusal) :
    withFramer s run = .next { s with cerr := .illegal } := by simp [withFramer, h, illegalCommand_eq]

/-- If EmitFrame answers a next state, either all the bytes went out and the code is OK, or a prefix went out and the
code is TX_ERR; nothing else but the transport's answer is used up. -/
theorem emitFrame_next {bytes : List Byte} {s t : State} (h : emitFrame bytes s = .next t) :
    (∃ later, s.txAnswers = .accept :: later ∧
      t = { s with sent := s.sent ++ bytes, cerr := .ok, txAnswers := later }) ∨
    (∃ taken later, s.txAnswers = .error taken :: later ∧
      t = { s with sent := s.sent ++ bytes.take taken, cerr := .txErr, txAnswers := later }) := by
  unfold emitFrame at h
  split at h
  · cases h
  · rename_i later hl
    cases h
    exact .inl ⟨later, hl, rfl⟩
  · rename_i taken later hl
    cases h
    exact .inr ⟨taken, later, hl, rfl⟩

theorem emitFrame_accept {bytes : List Byte} {s : State} {later : List TxAnswer}
    (h : s.txAnswers = .accept :: later) :
    emitFrame bytes s = .next { s with sent := s.sent ++ bytes, cerr := .ok, txAnswers := later } := by
  simp [emitFrame, h]

theorem emitFrame_error {bytes : List Byte} {s : State} {taken : Nat} {later : List TxAnswer}
    (h : s.txAnswers = .error taken :: later) :
    emitFrame bytes s =
      .next { s with sent := s.sent ++ bytes.take taken, cerr := .txErr, txAnswers := later } := by
  simp [emitFrame, h]

theorem emitFrame_waits {bytes : List Byte} {s : State} (h : s.txAnswers = []) :
    emitFrame bytes s = .fault .waitsForTransport := by
  simp [emitFrame, h]

/-- A row of the decode table answers a next state exactly where the transport offers its byte and its condition
holds, and then it answers the row's effect. -/
theorem rxRow_next {byte : Byte} {cond : Bool} {s t u : State} :
    rxRow byte cond s t = .next u ↔ (s.pending.head? = some byte ∧ cond = true) ∧ t = u := by
  unfold rxRow
  split
  · rename_i h
    constructor
    · intro e; cases e; exact ⟨h, rfl⟩
    · rintro ⟨-, rfl⟩; rfl
  · rename_i h
    constructor
    · intro e; cases e
    · rintro ⟨h', -⟩; exact absurd h' h

/-- The row that R87 gives a byte is an inbound row, so `execInbound` and `exec` agree on it. -/
theorem execInbound_decodeRx (v : ScanView) (byte : Byte) (s : State) :
    execInbound (decodeRx v byte) s = exec (decodeRx v byte) s := by
  unfold decodeRx
  split <;> (repeat' split) <;> rfl

/-- Offering the oldest pending byte runs the row that R87 gives it. -/
theorem offerOldest_cons {s : State} {byte : Byte} {later : List Byte} (h : s.pending = byte :: later) :
    offerOldest s = exec (decodeRx s.scanView byte) s := by
  unfold offerOldest
  rw [h]
  exact execInbound_decodeRx s.scanView byte s

/-- If the offer of a byte answers a next state, there was a byte, and its row answered. -/
theorem offerOldest_next {s t : State} (h : offerOldest s = .next t) :
    ∃ byte later, s.pending = byte :: later ∧ exec (decodeRx s.scanView byte) s = .next t := by
  cases hp : s.pending with
  | nil => simp [offerOldest, hp] at h
  | cons byte later => exact ⟨byte, later, rfl, by rwa [offerOldest_cons hp] at h⟩

/-- A command read by its frame presents its word or its frame, and the frame is what the command sends. -/
theorem frameSignal_eq (w : CmdWord) (s : State) :
    (frameSignal w s = .cmd w ∧ commandFrame (decodeCmd w) s = []) ∨
    frameSignal w s = .txFrame (commandFrame (decodeCmd w) s) := by
  unfold frameSignal
  split
  · exact .inl ⟨rfl, ‹_›⟩
  · rename_i h; exact .inr (by rw [h])

/-- Only a command read by its frame presents a frame, the one the command sends. -/
theorem nextSignal_txFrame {s : State} {bytes : List Byte} (h : nextSignal s = .ok (.txFrame bytes)) :
    ∃ w rest, s.inputs = .frame w :: rest ∧ bytes = commandFrame (decodeCmd w) s ∧ bytes ≠ [] := by
  unfold nextSignal at h
  split at h <;> try cases h
  · split at h <;> cases h
  · rename_i w rest hi
    refine ⟨w, rest, hi, ?_⟩
    unfold frameSignal at h
    split at h
    · cases h
    · rename_i byte more hf
      cases h
      exact ⟨hf.symm, by simp⟩

/-- A frame that a command sends decodes to a frame row, and that row does what the command does. -/
theorem commandFrame_row {i : Instr} {s : State} (h : commandFrame i s ≠ []) :
    ∃ row, decodeTxFrame (commandFrame i s) = .ok row ∧ (∀ u, outgoing u = outgoing s → exec row u = exec i u) ∧
      (row = .frameI2cConfig ∨ (∃ addr out, row = .frameReqWrite addr out) ∨ ∃ addr out, row = .frameReqRead addr out) := by
  unfold commandFrame at h ⊢
  split at h
  · rename_i hf
    rw [if_pos hf]
    split at h
    · exact ⟨.frameI2cConfig, rfl, fun u _ => rfl, .inl rfl⟩
    · rename_i a b
      refine ⟨.frameReqWrite a (outgoing s), decodeTxFrame_write a _, fun u hu => ?_, .inr (.inl ⟨_, _, rfl⟩)⟩
      rw [← hu]; rfl
    · rename_i a b
      refine ⟨.frameReqRead a (outgoing s), decodeTxFrame_read a _, fun u hu => ?_, .inr (.inr ⟨_, _, rfl⟩)⟩
      rw [← hu]; rfl
    · exact absurd rfl h
  · exact absurd rfl h

/-- A step that answers a next state either ran the row that the fetched signal decodes to, or took in bytes that are
no frame of the far end and offered the oldest pending byte. -/
theorem step_next {s t : State} (h : step s = .next t) :
    (∃ sig i, nextSignal s = .ok sig ∧ decode s.scanView sig = .ok i ∧ exec i (dropInput s) = .next t) ∨
    (∃ bytes e, nextSignal s = .ok (.line bytes) ∧ decode s.scanView (.line bytes) = .error e ∧
      offerOldest (arrive bytes (dropInput s)) = .next t) := by
  unfold step fetch at h
  cases hs : nextSignal s with
  | error f => simp [hs] at h
  | ok sig =>
    cases hd : decode s.scanView sig with
    | ok i =>
      simp only [hs, hd] at h
      exact .inl ⟨sig, i, rfl, hd, h⟩
    | error e =>
      cases sig <;> simp only [hs, hd, fetchUndecoded] at h <;> try cases h
      rename_i bytes
      refine .inr ⟨bytes, e, rfl, hd, ?_⟩
      cases hp : (dropInput s).pending ++ bytes with
      | nil => rw [hp] at h; cases h
      | cons byte later =>
        rw [hp] at h
        exact (offerOldest_cons (s := arrive bytes (dropInput s)) hp).trans h

end Sys2Proof.Machine
end

