-- ==== Sys2Proof/Laws/Exec.lean ====
section
/-! SUPPORT. What a row can do to the state, said once: every row that completes has one of eleven shapes, with the
guards it ran under. -/

namespace Sys2Proof.Machine

/-- The scanner states an accepted byte can lead to without storing anything, with the state and the count it needs. -/
def ByteMove (s : State) (dst : Sst) : Prop :=
  (s.sst = .s0 ∧ (dst = .s0 ∨ dst = .s1)) ∨ (s.sst = .s1 ∧ (dst = .s1 ∨ dst = .s2)) ∨
  (s.sst = .s2 ∧ ((dst = .done ∧ 4 ≤ s.plen) ∨ (dst = .short ∧ s.plen < 4) ∨
    (dst = .ovf ∧ s.params.payloadMax ≤ s.plen)))

/-- What the offer of the oldest pending byte can do. -/
inductive ByteShape (s : State) : State → Prop where
  /-- the byte is not accepted -/
  | kept (h : scanning s.sst = false) : ByteShape s s
  /-- the byte is accepted and not stored -/
  | accept (byte : Byte) (dst : Sst) (hp : s.pending.head? = some byte) (h : ByteMove s dst) :
      ByteShape s { takeByte s with sst := dst }
  /-- the byte is accepted and stored -/
  | append (byte : Byte) (hp : s.pending.head? = some byte) (h2 : s.sst = .s2)
      (hl : s.plen < s.params.payloadMax) :
      ByteShape s { takeByte s with pbuf := s.pbuf.write s.plen byte, plen := s.plen + 1 }

theorem ByteMove.scanning {s : State} {dst : Sst} (h : ByteMove s dst) : scanning s.sst = true := by
  rcases h with h | h | h <;> rw [h.1] <;> rfl

/-- Outside a scan the offer of a byte changes nothing. -/
theorem ByteShape.eq_of_not_scanning {s t : State} (h : ByteShape s t) (hs : scanning s.sst = false) : t = s := by
  cases h with
  | kept => rfl
  | accept byte dst hp hm => rw [hm.scanning] at hs; cases hs
  | append byte hp h2 => rw [h2] at hs; cases hs

/-- The offer of a byte takes it while scanning, and only then. -/
theorem ByteShape.pending_eq {s t : State} (h : ByteShape s t) :
    t.pending = if scanning s.sst then s.pending.tail else s.pending := by
  cases h with
  | kept hs => simp [hs]
  | accept byte dst hp hm => simp [hm.scanning]
  | append byte hp h2 => simp [h2, scanning]

/-- The offer of a byte emits nothing. -/
theorem ByteShape.sent_eq {s t : State} (h : ByteShape s t) : t.sent = s.sent := by cases h <;> rfl

/-- One shape of a completing row. -/
inductive Shape (i : Instr) (s : State) : State → Prop where
  /-- nothing changes -/
  | same : Shape i s s
  /-- only a completion code is recorded -/
  | code (c : CErr) : Shape i s { s with cerr := c }
  /-- OLEN is cleared -/
  | clear (hf : s.params.framer = true) : Shape i s { s with olen := 0, cerr := .ok }
  /-- a byte is appended to OBUF -/
  | push (byte : Byte) (hf : s.params.framer = true) (h : s.olen < s.params.outMax) :
      Shape i s { s with obuf := s.obuf.write s.olen byte, olen := s.olen + 1, cerr := .ok }
  /-- a frame, or a prefix of it, is emitted; a read request also sets TADDR -/
  | emit (frame bytes : List Byte) (a : Byte) (c : CErr) (later : List TxAnswer) (hf : s.params.framer = true)
      (hb : bytes <+: frame)
      (hframe : frame = configFrame ∨ ∃ mode addr out, (mode = writeMode ∨ mode = readMode) ∧
        frame = requestFrame mode addr out) :
      Shape i s { s with taddr := a, sent := s.sent ++ bytes, cerr := c, txAnswers := later }
  /-- CODEC_OUT is written -/
  | codec (v : BitVec 16) : Shape i s { s with codecOut := v, cerr := .ok }
  /-- the scanner is armed -/
  | arm (a b : Byte) (hi : i = .scanStart a b) (h : scanning s.sst = false) : Shape i s { s with sst := .s0, plen := 0, cerr := .ok }
  /-- a byte is offered -/
  | offer {t : State} (h : ByteShape s t) : Shape i s t
  /-- a read error aborts the scan -/
  | abort (h : scanning s.sst = true) : Shape i s { s with sst := .abort }
  /-- bytes arrive at the transport and a byte is offered -/
  | deliver {t : State} (bytes : List Byte) (h : ByteShape (arrive bytes s) t) : Shape i s t
  /-- the block is reset -/
  | reset (waiting : Option (CmdWord × Nat)) (hi : i = .reset waiting) :
      Shape i s { resetBlock s with sent := s.sent ++ abandonedPrefix waiting s }

theorem shape_withFramer {i : Instr} {s t : State} {run : Host.Outcome State Fault Refusal} (h : withFramer s run = .next t)
    (hrun : s.params.framer = true → run = .next t → Shape i s t) : Shape i s t := by
  cases hf : s.params.framer with
  | true => exact hrun hf ((withFramer_on hf run).symm.trans h)
  | false =>
    rw [withFramer_off hf] at h
    cases h
    exact .code .illegal

theorem shape_emitFrame {i : Instr} {s t : State} {frame : List Byte} {a : Byte} (hf : s.params.framer = true)
    (hframe : frame = configFrame ∨ ∃ mode addr out, (mode = writeMode ∨ mode = readMode) ∧
      frame = requestFrame mode addr out)
    (h : emitFrame frame { s with taddr := a } = .next t) : Shape i s t := by
  obtain ⟨later, -, rfl⟩ | ⟨taken, later, -, rfl⟩ := emitFrame_next h
  · exact .emit frame frame a .ok later hf (List.prefix_refl frame) hframe
  · exact .emit frame (frame.take taken) a .txErr later hf (List.take_prefix taken frame) hframe

theorem byteShape_rxRow {s t u : State} {byte : Byte} {cond : Bool} (h : rxRow byte cond s t = .next u)
    (ht : s.pending.head? = some byte → cond = true → ByteShape s t) : ByteShape s u := by
  obtain ⟨⟨hp, hc⟩, rfl⟩ := rxRow_next.mp h
  exact ht hp hc

/-- Every inbound row that completes has one of the three byte shapes. -/
theorem execInbound_shape {i : Instr} {s t : State} (h : execInbound i s = .next t) : ByteShape s t := by
  unfold execInbound at h
  split at h
  · refine byteShape_rxRow h fun hp hc => .accept _ .s1 hp ?_
    simp only [decide_eq_true_eq] at hc
    exact .inl ⟨hc, .inr rfl⟩
  · rename_i byte
    refine byteShape_rxRow h fun hp hc => ?_
    simp only [decide_eq_true_eq] at hc
    have := ByteShape.accept (s := s) byte .s0 hp (.inl ⟨hc.1, .inl rfl⟩)
    rwa [show ({ takeByte s with sst := .s0 } : State) = takeByte s by rw [← hc.1]; rfl] at this
  · refine byteShape_rxRow h fun hp hc => .accept _ .s2 hp ?_
    simp only [decide_eq_true_eq] at hc
    exact .inr (.inl ⟨hc, .inr rfl⟩)
  · rename_i byte
    refine byteShape_rxRow h fun hp hc => ?_
    simp only [decide_eq_true_eq] at hc
    have := ByteShape.accept (s := s) byte .s1 hp (.inr (.inl ⟨hc.1, .inl rfl⟩))
    rwa [show ({ takeByte s with sst := .s1 } : State) = takeByte s by rw [← hc.1]; rfl] at this
  · refine byteShape_rxRow h fun hp hc => .accept _ .done hp ?_
    simp only [decide_eq_true_eq] at hc
    exact .inr (.inr ⟨hc.1, .inl ⟨rfl, hc.2⟩⟩)
  · refine byteShape_rxRow h fun hp hc => .accept _ .short hp ?_
    simp only [decide_eq_true_eq] at hc
    exact .inr (.inr ⟨hc.1, .inr (.inl ⟨rfl, hc.2⟩)⟩)
  · rename_i byte
    refine byteShape_rxRow h fun hp hc => ?_
    simp only [decide_eq_true_eq] at hc
    exact .append byte hp hc.1 hc.2.2
  · refine byteShape_rxRow h fun hp hc => .accept _ .ovf hp ?_
    simp only [decide_eq_true_eq] at hc
    exact .inr (.inr ⟨hc.1, .inr (.inr ⟨rfl, hc.2.2⟩)⟩)
  · exact byteShape_rxRow h fun _ hc => .kept (by simpa using hc)
  · cases h

/-- The offer of the oldest pending byte has one of the three byte shapes. -/
theorem offerOldest_shape {s t : State} (h : offerOldest s = .next t) : ByteShape s t := by
  unfold offerOldest at h
  split at h
  · cases h
  · exact execInbound_shape h

/-- Every row that completes has one of the shapes. -/
theorem exec_shape {i : Instr} {s t : State} (h : exec i s = .next t) : Shape i s t := by
  cases i with
  | nop a b => cases h; exact .code .ok
  | outClear a b => exact shape_withFramer h fun hf h => by cases h; exact .clear hf
  | outPush a b =>
    refine shape_withFramer h fun hf h => ?_
    split at h
    · rename_i hl
      cases h
      exact .push a hf hl
    · cases h; exact .code .outOvf
  | frameConfig a b => exact shape_withFramer h fun hf h => shape_emitFrame (a := s.taddr) hf (.inl rfl) h
  | frameWrite a b =>
    exact shape_withFramer h fun hf h =>
      shape_emitFrame (a := s.taddr) hf (.inr ⟨writeMode, a, outgoing s, .inl rfl, rfl⟩) h
  | frameRead a b =>
    exact shape_withFramer h fun hf h =>
      shape_emitFrame (a := a) hf (.inr ⟨readMode, a, outgoing s, .inr rfl, rfl⟩) h
  | scanStart a b =>
    simp only [exec, execScanStart] at h
    split at h
    · cases h; exact .code .busy
    · rename_i hs
      cases h
      exact .arm a b rfl (by simpa using hs)
  | pack a b => cases h; exact .codec _
  | unpack a b => cases h; exact .codec _
  | reservedOp9 a b => cases h; exact .code .illegal
  | reservedOpA a b => cases h; exact .code .illegal
  | reservedOpB a b => cases h; exact .code .illegal
  | reservedOpC a b => cases h; exact .code .illegal
  | reservedOpD a b => cases h; exact .code .illegal
  | reservedOpE a b => cases h; exact .code .illegal
  | reservedOpF a b => cases h; exact .code .illegal
  | reservedRsv rsv op a b => cases h; exact .code .illegal
  | frameI2cConfig => exact shape_withFramer h fun hf h => shape_emitFrame (a := s.taddr) hf (.inl rfl) h
  | frameReqWrite addr out =>
    exact shape_withFramer h fun hf h =>
      shape_emitFrame (a := s.taddr) hf (.inr ⟨writeMode, addr, out, .inl rfl, rfl⟩) h
  | frameReqRead addr out =>
    exact shape_withFramer h fun hf h =>
      shape_emitFrame (a := addr) hf (.inr ⟨readMode, addr, out, .inr rfl, rfl⟩) h
  | frameReply addr reg data => exact .deliver _ (offerOldest_shape h)
  | frameReportFirmware rest => exact .deliver _ (offerOldest_shape h)
  | rxS0Start => exact .offer (execInbound_shape (i := .rxS0Start) h)
  | rxS0Discard byte => exact .offer (execInbound_shape (i := .rxS0Discard byte) h)
  | rxS1Tag => exact .offer (execInbound_shape (i := .rxS1Tag) h)
  | rxS1Discard byte => exact .offer (execInbound_shape (i := .rxS1Discard byte) h)
  | rxS2End => exact .offer (execInbound_shape (i := .rxS2End) h)
  | rxS2EndShort => exact .offer (execInbound_shape (i := .rxS2EndShort) h)
  | rxS2Append byte => exact .offer (execInbound_shape (i := .rxS2Append byte) h)
  | rxS2Overflow byte => exact .offer (execInbound_shape (i := .rxS2Overflow byte) h)
  | rxNotAccepted byte => exact .offer (execInbound_shape (i := .rxNotAccepted byte) h)
  | rxErr =>
    simp only [exec, execRxErr] at h
    split at h
    · rename_i hs
      cases h
      exact .abort hs
    · cases h; exact .same
  | reset waiting => cases h; exact .reset waiting rfl

/-- Every step that completes gives one of the shapes to the state without its oldest event. -/
theorem step_shape {s t : State} (h : step s = .next t) : ∃ i, Shape i (dropInput s) t := by
  obtain ⟨-, i, -, -, h⟩ | ⟨bytes, -, -, -, h⟩ := step_next h
  · exact ⟨i, exec_shape h⟩
  · exact ⟨.frameReportFirmware bytes, .deliver bytes (offerOldest_shape h)⟩

end Sys2Proof.Machine
end

