-- ==== Sys2Proof/Laws/Memory.lean ====
section
/-! SUPPORT. The laws of a buffer: a read after a write, and that a write keeps the canonical form. -/

namespace Sys2Proof.Machine

@[simp] theorem Memory.read_nil (a : Nat) : Memory.read [] a = unlistedByte := rfl

theorem Memory.read_cons_cell (i : Nat) (v : Byte) (m : Memory) (a : Nat) :
    Memory.read ((i, v) :: m) a = if i = a then v else Memory.read m a := rfl

/-- The canonical form from `lo` up is the canonical form from any lower index. -/
theorem Memory.wfFrom_mono {lo lo' : Nat} (h : lo' ≤ lo) {m : Memory} (hm : Memory.wfFrom lo m = true) :
    Memory.wfFrom lo' m = true := by
  cases m with
  | nil => rfl
  | cons c rest =>
    simp only [Memory.wfFrom, Bool.and_eq_true, decide_eq_true_eq] at hm ⊢
    exact ⟨⟨by omega, hm.1.2⟩, hm.2⟩

/-- Below the first index of a canonical buffer nothing is listed. -/
theorem Memory.read_lt {lo a : Nat} {m : Memory} (hm : Memory.wfFrom lo m = true) (h : a < lo) :
    Memory.read m a = unlistedByte := by
  induction m generalizing lo with
  | nil => rfl
  | cons c rest ih =>
    simp only [Memory.wfFrom, Bool.and_eq_true, decide_eq_true_eq] at hm
    rw [Memory.read_cons_cell, if_neg (by omega)]
    exact ih hm.2 (by omega)

theorem Memory.read_cons_same {a : Nat} {v : Byte} {m : Memory} (h : Memory.read m a = unlistedByte) :
    Memory.read (Memory.cons a v m) a = v := by
  unfold Memory.cons
  split
  · rw [h]; exact Eq.symm ‹_›
  · simp [Memory.read_cons_cell]

theorem Memory.read_cons_other {a c : Nat} (h : a ≠ c) (v : Byte) (m : Memory) :
    Memory.read (Memory.cons a v m) c = Memory.read m c := by
  unfold Memory.cons
  split
  · rfl
  · rw [Memory.read_cons_cell, if_neg h]

theorem Memory.wfFrom_cons {lo a : Nat} {v : Byte} {m : Memory} (h : lo ≤ a)
    (hm : Memory.wfFrom (a + 1) m = true) : Memory.wfFrom lo (Memory.cons a v m) = true := by
  unfold Memory.cons
  split
  · exact Memory.wfFrom_mono (by omega) hm
  · simp [Memory.wfFrom, *]

/-- A write leaves every other byte alone. -/
theorem Memory.read_write_other {a c : Nat} (h : a ≠ c) (m : Memory) (v : Byte) :
    Memory.read (Memory.write m a v) c = Memory.read m c := by
  induction m with
  | nil => exact Memory.read_cons_other h v []
  | cons cell rest ih =>
    obtain ⟨i, w⟩ := cell
    unfold Memory.write
    split
    · exact Memory.read_cons_other h v _
    · split
      · rw [Memory.read_cons_other h, Memory.read_cons_cell, if_neg (by omega)]
      · simp only [Memory.read_cons_cell, ih]

theorem Memory.read_write_same_from {lo a : Nat} {m : Memory} (hm : Memory.wfFrom lo m = true) (v : Byte) :
    Memory.read (Memory.write m a v) a = v := by
  induction m generalizing lo with
  | nil => exact Memory.read_cons_same rfl
  | cons cell rest ih =>
    obtain ⟨i, w⟩ := cell
    have hm' := hm
    simp only [Memory.wfFrom, Bool.and_eq_true, decide_eq_true_eq] at hm
    unfold Memory.write
    split
    · rename_i h
      refine Memory.read_cons_same ?_
      rw [Memory.read_cons_cell, if_neg (by omega)]
      exact Memory.read_lt hm.2 (by omega)
    · split
      · rename_i h
        exact Memory.read_cons_same (Memory.read_lt hm.2 (by omega))
      · rw [Memory.read_cons_cell, if_neg (by omega)]
        exact ih hm.2

/-- A read after a write to the same index gives the byte written. -/
theorem Memory.read_write_same {m : Memory} (hm : m.wf = true) (a : Nat) (v : Byte) :
    Memory.read (Memory.write m a v) a = v := Memory.read_write_same_from hm v

theorem Memory.wfFrom_write {lo a : Nat} {m : Memory} (hm : Memory.wfFrom lo m = true) (h : lo ≤ a) (v : Byte) :
    Memory.wfFrom lo (Memory.write m a v) = true := by
  induction m generalizing lo with
  | nil => exact Memory.wfFrom_cons h rfl
  | cons cell rest ih =>
    obtain ⟨i, w⟩ := cell
    simp only [Memory.wfFrom, Bool.and_eq_true, decide_eq_true_eq] at hm
    unfold Memory.write
    split
    · refine Memory.wfFrom_cons h ?_
      simp only [Memory.wfFrom, Bool.and_eq_true, decide_eq_true_eq]
      exact ⟨⟨by omega, hm.1.2⟩, hm.2⟩
    · split
      · rename_i h2
        subst h2
        exact Memory.wfFrom_cons h hm.2
      · simp only [Memory.wfFrom, Bool.and_eq_true, decide_eq_true_eq]
        exact ⟨hm.1, ih hm.2 (by omega)⟩

/-- A write keeps the canonical form. -/
theorem Memory.wf_write {m : Memory} (hm : m.wf = true) (a : Nat) (v : Byte) : (m.write a v).wf = true :=
  Memory.wfFrom_write hm (Nat.zero_le a) v

/-- The empty buffer, which the reset state holds, is in canonical form. -/
theorem Memory.wf_nil : Memory.wf [] = true := rfl

/-- A write below the capacity keeps every cell below it. -/
theorem Memory.below_write {n a : Nat} {m : Memory} (hm : m.all (fun cell => cell.1 < n) = true) (h : a < n)
    (v : Byte) : (m.write a v).all (fun cell => cell.1 < n) = true := by
  have below_cons : ∀ m' : Memory, m'.all (fun cell => cell.1 < n) = true →
      (Memory.cons a v m').all (fun cell => cell.1 < n) = true := by
    intro m' hm'
    unfold Memory.cons
    split
    · exact hm'
    · simp only [List.all_cons, Bool.and_eq_true, decide_eq_true_eq]
      exact ⟨h, hm'⟩
  induction m with
  | nil => exact below_cons [] rfl
  | cons cell rest ih =>
    obtain ⟨i, w⟩ := cell
    have hm' := hm
    simp only [List.all_cons, Bool.and_eq_true, decide_eq_true_eq] at hm
    unfold Memory.write
    split
    · exact below_cons _ hm'
    · split
      · exact below_cons _ hm.2
      · simp only [List.all_cons, Bool.and_eq_true, decide_eq_true_eq]
        exact ⟨hm.1, ih hm.2⟩

/-- Filling a buffer gives the canonical form. -/
theorem Memory.wf_fill (f : Nat → Byte) (n : Nat) : (Memory.fill f n).wf = true := by
  induction n with
  | zero => rfl
  | succ n ih => exact Memory.wf_write ih n (f n)

/-- A filled buffer has its cells below its capacity. -/
theorem Memory.below_fill (f : Nat → Byte) {n cap : Nat} (h : n ≤ cap) :
    (Memory.fill f n).all (fun cell => cell.1 < cap) = true := by
  induction n with
  | zero => rfl
  | succ n ih => exact Memory.below_write (ih (by omega)) (by omega) (f n)

/-- A filled buffer reads as its contents below its capacity. -/
theorem Memory.read_fill (f : Nat → Byte) {n i : Nat} (h : i < n) : (Memory.fill f n).read i = f i := by
  induction n with
  | zero => omega
  | succ n ih =>
    rcases Nat.lt_or_ge i n with hi | hi
    · exact (Memory.read_write_other (by omega) _ _).trans (ih hi)
    · rw [show i = n by omega]
      exact Memory.read_write_same (Memory.wf_fill f n) n (f n)

end Sys2Proof.Machine
end

