-- ==== Sys2Proof/Laws/PerInstr.lean ====
section
/-! SUPPORT. The family SignalPort: which port each row's encoding is a signal of (R10). -/

namespace Sys2Proof.Laws.SignalPort

/-- The ports a signal comes on. -/
inductive Port where
  | cmd | rxByte | rxErr | reset | txFrame | line
deriving DecidableEq, Repr

/-- The port of a signal. -/
def portOf : Signal → Port
  | .cmd _ => .cmd
  | .rxByte _ => .rxByte
  | .rxErr => .rxErr
  | .reset _ => .reset
  | .txFrame _ => .txFrame
  | .line _ => .line

/-- The port of a row, by the "format" the opcode table gives it; the frames of the framer and of the far end are told
apart by 41_framer.md and R79, R82. -/
def rowPort : Instr → Port
  | .frameI2cConfig => .txFrame
  | .frameReqWrite _ _ => .txFrame
  | .frameReqRead _ _ => .txFrame
  | .frameReply _ _ _ => .line
  | .frameReportFirmware _ => .line
  | .rxS0Start => .rxByte
  | .rxS0Discard _ => .rxByte
  | .rxS1Tag => .rxByte
  | .rxS1Discard _ => .rxByte
  | .rxS2End => .rxByte
  | .rxS2EndShort => .rxByte
  | .rxS2Append _ => .rxByte
  | .rxS2Overflow _ => .rxByte
  | .rxNotAccepted _ => .rxByte
  | .rxErr => .rxErr
  | .reset _ => .reset
  | _ => .cmd

/-- The row's encoding is a signal of the row's port. -/
def Statement (i : Instr) : Prop := portOf (encode i) = rowPort i

theorem nop : ∀ a b, Statement (.nop a b) := fun _ _ => rfl

theorem outClear : ∀ a b, Statement (.outClear a b) := fun _ _ => rfl

theorem outPush : ∀ a b, Statement (.outPush a b) := fun _ _ => rfl

theorem frameConfig : ∀ a b, Statement (.frameConfig a b) := fun _ _ => rfl

theorem frameWrite : ∀ a b, Statement (.frameWrite a b) := fun _ _ => rfl

theorem frameRead : ∀ a b, Statement (.frameRead a b) := fun _ _ => rfl

theorem scanStart : ∀ a b, Statement (.scanStart a b) := fun _ _ => rfl

theorem pack : ∀ a b, Statement (.pack a b) := fun _ _ => rfl

theorem unpack : ∀ a b, Statement (.unpack a b) := fun _ _ => rfl

theorem reservedOp9 : ∀ a b, Statement (.reservedOp9 a b) := fun _ _ => rfl

theorem reservedOpA : ∀ a b, Statement (.reservedOpA a b) := fun _ _ => rfl

theorem reservedOpB : ∀ a b, Statement (.reservedOpB a b) := fun _ _ => rfl

theorem reservedOpC : ∀ a b, Statement (.reservedOpC a b) := fun _ _ => rfl

theorem reservedOpD : ∀ a b, Statement (.reservedOpD a b) := fun _ _ => rfl

theorem reservedOpE : ∀ a b, Statement (.reservedOpE a b) := fun _ _ => rfl

theorem reservedOpF : ∀ a b, Statement (.reservedOpF a b) := fun _ _ => rfl

theorem reservedRsv : ∀ rsv op a b, Statement (.reservedRsv rsv op a b) := fun _ _ _ _ => rfl

theorem frameI2cConfig : Statement .frameI2cConfig := rfl

theorem frameReqWrite : ∀ addr out, Statement (.frameReqWrite addr out) := fun _ _ => rfl

theorem frameReqRead : ∀ addr out, Statement (.frameReqRead addr out) := fun _ _ => rfl

theorem frameReply : ∀ addr reg data, Statement (.frameReply addr reg data) := fun _ _ _ => rfl

theorem frameReportFirmware : ∀ rest, Statement (.frameReportFirmware rest) := fun _ => rfl

theorem rxS0Start : Statement .rxS0Start := rfl

theorem rxS0Discard : ∀ byte, Statement (.rxS0Discard byte) := fun _ => rfl

theorem rxS1Tag : Statement .rxS1Tag := rfl

theorem rxS1Discard : ∀ byte, Statement (.rxS1Discard byte) := fun _ => rfl

theorem rxS2End : Statement .rxS2End := rfl

theorem rxS2EndShort : Statement .rxS2EndShort := rfl

theorem rxS2Append : ∀ byte, Statement (.rxS2Append byte) := fun _ => rfl

theorem rxS2Overflow : ∀ byte, Statement (.rxS2Overflow byte) := fun _ => rfl

theorem rxNotAccepted : ∀ byte, Statement (.rxNotAccepted byte) := fun _ => rfl

theorem rxErr : Statement .rxErr := rfl

theorem reset : ∀ waiting, Statement (.reset waiting) := fun _ => rfl

end Sys2Proof.Laws.SignalPort
end

