-- ==== Sys2Proof/Tests/Slice0.lean ====
section
/-! SUPPORT. Small tests. Expected values come from spec/95_test_vectors.md and the encodings of spec/30_encoding.md;
the last part shows, for each statement with hypotheses, a state and operands that meet them. -/

namespace Sys2Proof.Tests

open Sys2Proof Sys2Proof.Machine

/-- The next state, where there is one. -/
def nextOf (o : Host.Outcome State Fault Refusal) : Option State :=
  match o with
  | .next t => some t
  | .fault _ => none
  | .refused _ => none

/-- The refusal, where there is one. -/
def refusalOf (o : Host.Outcome State Fault Refusal) : Option Refusal :=
  match o with
  | .next _ => none
  | .fault _ => none
  | .refused r => some r

/-- One observation of the next state. -/
def after {α : Type} (o : Host.Outcome State Fault Refusal) (f : State → α) : Option α := (nextOf o).map f

/-- Reset, with a transport that takes the next frame and two outgoing bytes already pushed. -/
def loaded : State := { State.reset with olen := 2, obuf := [(0, 0x80#8), (1, 0xFF#8)], txAnswers := [.accept, .accept] }

/-- A small block (PAYLOAD_MAX 6, OUT_MAX 2) in a scanner state, with payload bytes 01 00 02 00 03 00 in PBUF and the
given bytes pending. -/
def scan (sst : Sst) (plen : Nat) (pending : List Byte) : State :=
  { State.reset with
    sst := sst, plen := plen, pbuf := [(0, 0x01#8), (2, 0x02#8), (4, 0x03#8)].filter (fun c => c.1 < plen),
    pending := pending, params := ⟨6, 2, true⟩ }

/-- A block without a framer. -/
def bare : State := { State.reset with params := ⟨64, 16, false⟩ }

/-! Well-formedness: one ill-formed term for each check. -/

theorem test_wellFormed_refuses :
    (Instr.reservedRsv 0#4 6#4 0#8 0#8).wellFormed = false ∧ (Instr.rxS0Discard 0xF0#8).wellFormed = false ∧
    (Instr.rxS1Discard 0x77#8).wellFormed = false ∧ (Instr.rxS2Append 0xF7#8).wellFormed = false ∧
    (Instr.rxS2Overflow 0xF7#8).wellFormed = false := by decide

theorem test_wellFormed_accepts :
    (Instr.reservedRsv 1#4 6#4 0#8 0#8).wellFormed = true ∧ (Instr.rxS0Discard 0xF7#8).wellFormed = true ∧
    (Instr.rxS1Discard 0xF0#8).wellFormed = true ∧ (Instr.rxS2Append 0xF0#8).wellFormed = true ∧
    (Instr.rxS2Overflow 0x77#8).wellFormed = true := by decide

/-! Decoding: words written out from the spec's encodings. -/

/-- 0xBBAAxO (R70, R71); the words of 95_test_vectors.md sections 1.2 to 2.7. -/
theorem test_decode_commands :
    decodeCmd 0x000000#24 = .nop 0#8 0#8 ∧ decodeCmd 0xABCD00#24 = .nop 0xCD#8 0xAB#8 ∧
    decodeCmd 0x000001#24 = .outClear 0#8 0#8 ∧ decodeCmd 0x000502#24 = .outPush 0x05#8 0#8 ∧
    decodeCmd 0x000003#24 = .frameConfig 0#8 0#8 ∧ decodeCmd 0x990404#24 = .frameWrite 0x04#8 0x99#8 ∧
    decodeCmd 0x004805#24 = .frameRead 0x48#8 0#8 ∧ decodeCmd 0x000006#24 = .scanStart 0#8 0#8 ∧
    decodeCmd 0x00B407#24 = .pack 0xB4#8 0#8 ∧ decodeCmd 0x013408#24 = .unpack 0x34#8 0x01#8 := by decide

/-- R72, R73. -/
theorem test_decode_illegal_words :
    decodeCmd 0x020109#24 = .reservedOp9 1#8 2#8 ∧ decodeCmd 0x02010A#24 = .reservedOpA 1#8 2#8 ∧
    decodeCmd 0x02010B#24 = .reservedOpB 1#8 2#8 ∧ decodeCmd 0x02010C#24 = .reservedOpC 1#8 2#8 ∧
    decodeCmd 0x02010D#24 = .reservedOpD 1#8 2#8 ∧ decodeCmd 0x02010E#24 = .reservedOpE 1#8 2#8 ∧
    decodeCmd 0x00000F#24 = .reservedOpF 0#8 0#8 ∧ decodeCmd 0x000010#24 = .reservedRsv 1#4 0#4 0#8 0#8 ∧
    decodeCmd 0x0201F6#24 = .reservedRsv 0xF#4 6#4 1#8 2#8 := by decide

/-- 95_test_vectors.md sections 1.2, 1.3, 1.4 and 2.4 F3. -/
theorem test_decode_sent_frames :
    decodeTxFrame [0xF0#8, 0x78#8, 0x00#8, 0x00#8, 0xF7#8] = .ok .frameI2cConfig ∧
    decodeTxFrame [0xF0#8, 0x76#8, 0x10#8, 0x00#8, 0x00#8, 0x01#8, 0x7F#8, 0x01#8, 0x70#8, 0x01#8, 0xF7#8] =
      .ok (.frameReqWrite 0x10#8 [0x80#8, 0xFF#8, 0xF0#8]) ∧
    decodeTxFrame [0xF0#8, 0x76#8, 0x3C#8, 0x08#8, 0x22#8, 0x00#8, 0xF7#8] =
      .ok (.frameReqRead 0x3C#8 [0x22#8]) := by decide

/-- 95_test_vectors.md section 1.4, and R82. -/
theorem test_decode_arriving_frames :
    decodeLine [0xF0#8, 0x77#8, 0x3C#8, 0x00#8, 0x55#8, 0x01#8, 0x00#8, 0x00#8, 0x00#8, 0x01#8, 0x7F#8, 0x01#8, 0xF7#8] =
      .ok (.frameReply 0x003C#14 0x00D5#14 [0x00#8, 0x80#8, 0xFF#8]) ∧
    decodeLine [0xF0#8, 0x79#8, 0x02#8] = .ok (.frameReportFirmware [0x02#8]) := by decide

/-- Frames of no layout are rejected by name. -/
theorem test_decode_rejects_frames :
    decodeTxFrame [0x78#8, 0xF0#8] = .error .noStartMarker ∧
    decodeTxFrame [0xF0#8, 0x79#8, 0xF7#8] = .error .unknownTag ∧
    decodeTxFrame [0xF0#8, 0x78#8, 0x00#8, 0x01#8, 0xF7#8] = .error .badConfigBody ∧
    decodeTxFrame [0xF0#8, 0x76#8, 0x10#8, 0x01#8, 0xF7#8] = .error .badMode ∧
    decodeTxFrame [0xF0#8, 0x76#8, 0x10#8, 0x00#8, 0x80#8, 0x00#8, 0xF7#8] = .error .badPairs ∧
    decodeLine [0xF0#8, 0x77#8, 0x80#8, 0x00#8, 0x00#8, 0x00#8, 0xF7#8] = .error .badUnit := by decide

/-- R87, row by row, at its boundary values. -/
theorem test_decode_inbound_bytes :
    decodeRx ⟨.s0, 0, 6⟩ 0xF0#8 = .rxS0Start ∧ decodeRx ⟨.s0, 0, 6⟩ 0x77#8 = .rxS0Discard 0x77#8 ∧
    decodeRx ⟨.s1, 0, 6⟩ 0x77#8 = .rxS1Tag ∧ decodeRx ⟨.s1, 0, 6⟩ 0xF0#8 = .rxS1Discard 0xF0#8 ∧
    decodeRx ⟨.s2, 4, 6⟩ 0xF7#8 = .rxS2End ∧ decodeRx ⟨.s2, 3, 6⟩ 0xF7#8 = .rxS2EndShort ∧
    decodeRx ⟨.s2, 5, 6⟩ 0xF0#8 = .rxS2Append 0xF0#8 ∧ decodeRx ⟨.s2, 6, 6⟩ 0x77#8 = .rxS2Overflow 0x77#8 ∧
    decodeRx ⟨.idle, 0, 6⟩ 0xF0#8 = .rxNotAccepted 0xF0#8 ∧ decodeRx ⟨.ovf, 6, 6⟩ 0xF7#8 = .rxNotAccepted 0xF7#8 := by
  decide

theorem test_decode_events :
    decode ⟨.s2, 4, 6⟩ .rxErr = .ok .rxErr ∧
    decode ⟨.idle, 0, 6⟩ (.reset (some (0x000003#24, 2))) = .ok (.reset (some (0x000003#24, 2))) := by decide

/-- The table's words, as the table numbers them. -/
theorem test_decode_table_words :
    decodeTableWord 8 0x05 = some (.frameRead 0#8 0#8) ∧ decodeTableWord 24 0x013408 = some (.unpack 0x34#8 0x01#8) ∧
    decodeTableWord 8 0xF0 = some .rxS0Start ∧ decodeTableWord 8 0x77 = some .rxS1Tag ∧
    decodeTableWord 8 0xF7 = some .rxS2End ∧ decodeTableWord 40 0xF7000078F0 = some .frameI2cConfig ∧
    decodeTableWord 40 0xF7081076F0 = some (.frameReqRead 0x10#8 []) ∧
    decodeTableWord 56 0xF70000000077F0 = some (.frameReply 0#14 0#14 []) ∧
    decodeTableWord 16 0x79F0 = some (.frameReportFirmware []) := by decide

/-- A placed word is what the first step after reset runs. -/
theorem test_fetch_word_runs :
    after (step (State.reset.withFetchWord 24 0x00B407)) (·.codecOut) = some 0x0134#16 ∧
    after (step (State.reset.withFetchWord 8 0xF0)) (·.sst) = some .s1 ∧
    after (step (State.reset.withFetchWord 8 0x77)) (·.sst) = some .s2 ∧
    after (step (State.reset.withFetchWord 8 0xF7)) (·.sst) = some .done ∧
    after (step (State.reset.withFetchWord 8 0x03)) (·.sent) = some [0xF0#8, 0x78#8, 0x00#8, 0x00#8, 0xF7#8] ∧
    after (step (State.reset.withFetchWord 16 0x79F0)) (·.pending) = some [0xF0#8, 0x79#8] := by decide

/-- A placed frame is what the first step after reset sends. -/
theorem test_fetch_frame_runs :
    after (step (State.reset.withFetchWord 40 0xF7000078F0)) (·.sent) = some [0xF0#8, 0x78#8, 0x00#8, 0x00#8, 0xF7#8] ∧
    after (step (State.reset.withFetchWord 56 0xF70005081076F0)) (fun t => (t.sent, t.taddr)) =
      some ([0xF0#8, 0x76#8, 0x10#8, 0x08#8, 0x05#8, 0x00#8, 0xF7#8], 0x10#8) ∧
    after (step (State.reset.withFetchWord 56 0xF70000000077F0)) (·.pending) =
      some [0xF0#8, 0x77#8, 0x00#8, 0x00#8, 0x00#8, 0x00#8, 0xF7#8] := by decide

/-! The codec (95_test_vectors.md sections 2.1 to 2.3). -/

theorem test_pack_values :
    (packLow 0x7F#8, packHigh 0x7F#8) = (0x7F#8, 0x00#8) ∧ (packLow 0x80#8, packHigh 0x80#8) = (0x00#8, 0x01#8) ∧
    (packLow 0xF7#8, packHigh 0xF7#8) = (0x77#8, 0x01#8) := by decide

theorem test_unpack_values :
    unpack 0x7F#8 0x7F#8 = 0x3FFF#15 ∧ unpack 0x48#8 0x02#8 = 0x0148#15 ∧ unpack8 0x48#8 0x02#8 = 0x48#8 ∧
    unpack 0x81#8 0x01#8 = 0x0081#15 ∧ unpack 0xFF#8 0xFF#8 = 0x7FFF#15 ∧ unpack8 0x01#8 0x03#8 = 0x81#8 := by decide

theorem test_pack_command : after (exec (.pack 0xFF#8 0#8) State.reset) (·.codecOut) = some 0x017F#16 := by decide

theorem test_unpack_command :
    after (exec (.unpack 0xFF#8 0xFF#8) State.reset) (·.codecOut) = some 0x7FFF#16 := by decide

theorem test_nop_command :
    after (exec (.nop 0xCD#8 0xAB#8) { State.reset with cerr := .busy, codecOut := 0x0134#16 })
      (fun t => (t.cerr, t.codecOut)) = some (.ok, 0x0134#16) := by decide

/-! The framer (95_test_vectors.md section 2.4). -/

/-- F7. -/
theorem test_out_push_overflow :
    after (exec (.outPush 0x03#8 0#8) { scan .idle 0 [] with olen := 2, obuf := [(0, 1#8), (1, 2#8)] })
      (fun t => (t.olen, outgoing t, status t)) = some (2, [1#8, 2#8], 0x0030#16) := by decide

theorem test_out_push_appends :
    after (exec (.outPush 0x02#8 0#8) { scan .idle 0 [] with olen := 1, obuf := [(0, 1#8)] })
      (fun t => (outgoing t, t.cerr)) = some ([1#8, 2#8], .ok) := by decide

theorem test_out_clear : after (exec (.outClear 0#8 0#8) loaded) outgoing = some [] := by decide

/-- F1. -/
theorem test_frame_config :
    after (exec (.frameConfig 0#8 0#8) loaded) (·.sent) = some [0xF0#8, 0x78#8, 0x00#8, 0x00#8, 0xF7#8] := by decide

/-- F3, with two bytes. -/
theorem test_frame_write :
    after (exec (.frameWrite 0x10#8 0#8) loaded) (·.sent) =
      some [0xF0#8, 0x76#8, 0x10#8, 0x00#8, 0x00#8, 0x01#8, 0x7F#8, 0x01#8, 0xF7#8] := by decide

/-- F8: a write error after 4 bytes. -/
theorem test_frame_write_error :
    after (exec (.frameWrite 0x04#8 0#8) { loaded with txAnswers := [.error 4] })
      (fun t => (t.sent, t.cerr)) = some ([0xF0#8, 0x76#8, 0x04#8, 0x00#8], .txErr) := by decide

/-- F4. -/
theorem test_frame_read :
    after (exec (.frameRead 0x48#8 0#8) { State.reset with txAnswers := [.accept] })
      (fun t => (t.sent, t.taddr)) = some ([0xF0#8, 0x76#8, 0x48#8, 0x08#8, 0xF7#8], 0x48#8) := by decide

/-- F9: TADDR is written although nothing was sent. -/
theorem test_frame_read_error :
    after (exec (.frameRead 0x22#8 0#8) { State.reset with txAnswers := [.error 0] })
      (fun t => (t.sent, t.taddr, t.cerr)) = some ([], 0x22#8, .txErr) := by decide

theorem test_sent_frame_rows :
    after (exec .frameI2cConfig loaded) (·.sent) = some [0xF0#8, 0x78#8, 0x00#8, 0x00#8, 0xF7#8] ∧
    after (exec (.frameReqWrite 0x04#8 [5#8]) loaded) (·.sent) =
      some [0xF0#8, 0x76#8, 0x04#8, 0x00#8, 0x05#8, 0x00#8, 0xF7#8] ∧
    after (exec (.frameReqRead 0x3C#8 [0x22#8]) loaded) (·.sent) =
      some [0xF0#8, 0x76#8, 0x3C#8, 0x08#8, 0x22#8, 0x00#8, 0xF7#8] := by decide

/-! The scanner (95_test_vectors.md section 2.5). -/

/-- S1 and S2. -/
theorem test_scan_start :
    after (exec (.scanStart 0#8 0#8) State.reset) status = some 0x0001#16 ∧
    after (exec (.scanStart 0#8 0#8) (scan .s0 0 [])) status = some 0x0021#16 := by decide

/-- S3. -/
theorem test_scan_start_after_done :
    after (exec (.scanStart 0#8 0#8) (scan .done 4 [])) (fun t => (t.sst, t.plen)) = some (.s0, 0) := by decide

/-- S5 and S8. -/
theorem test_rx_markers :
    after (exec .rxS0Start (scan .s0 0 [0xF0#8, 1#8])) (fun t => (t.sst, t.pending)) = some (.s1, [1#8]) ∧
    after (exec .rxS1Tag (scan .s1 0 [0x77#8])) (fun t => (t.sst, t.plen)) = some (.s2, 0) := by decide

/-- S7 and S9. -/
theorem test_rx_discards :
    after (exec (.rxS0Discard 0xF7#8) (scan .s0 0 [0xF7#8])) (fun t => (t.sst, t.pending)) = some (.s0, []) ∧
    after (exec (.rxS1Discard 0xF0#8) (scan .s1 0 [0xF0#8])) (fun t => (t.sst, t.pending)) = some (.s1, []) := by decide

/-- S11 and S12. -/
theorem test_rx_ends :
    after (exec .rxS2End (scan .s2 4 [0xF7#8])) (fun t => (t.sst, dcount t)) = some (.done, 0) ∧
    after (exec .rxS2EndShort (scan .s2 1 [0xF7#8])) status = some 0x000E#16 := by decide

/-- S13. -/
theorem test_rx_append :
    after (exec (.rxS2Append 0xF0#8) (scan .s2 0 [0xF0#8])) (fun t => (t.sst, payload t)) =
      some (.s2, [0xF0#8]) := by decide

/-- S15: the seventh payload byte. -/
theorem test_rx_overflow :
    after (exec (.rxS2Overflow 0x04#8) (scan .s2 6 [0x04#8, 0x00#8, 0xF7#8])) (fun t => (t.plen, status t, t.pending)) =
      some (6, 0x000F#16, [0x00#8, 0xF7#8]) := by decide

/-- S4. -/
theorem test_rx_not_accepted :
    after (exec (.rxNotAccepted 0xF0#8) (scan .idle 0 [0xF0#8, 0x77#8])) (·.pending) = some [0xF0#8, 0x77#8] := by decide

/-- S16 and S17. -/
theorem test_rx_err :
    after (exec .rxErr (scan .s2 3 [])) status = some 0x000D#16 ∧
    nextOf (exec .rxErr (scan .idle 0 [])) = some (scan .idle 0 []) := by decide

/-- An inbound row outside its state is refused by name. -/
theorem test_rx_row_not_selected :
    refusalOf (exec .rxS0Start (scan .s1 0 [0xF0#8])) = some .rowNotSelected ∧
    refusalOf (exec .rxS2End (scan .s2 3 [0xF7#8])) = some .rowNotSelected := by decide

theorem test_arriving_frames :
    after (exec (.frameReply 0x0005#14 0x0000#14 [0x80#8]) State.reset) (·.pending) =
      some [0xF0#8, 0x77#8, 0x05#8, 0x00#8, 0x00#8, 0x00#8, 0x00#8, 0x01#8, 0xF7#8] ∧
    after (exec (.frameReportFirmware [2#8]) State.reset) (·.pending) = some [0xF0#8, 0x79#8, 2#8] := by decide

/-! The decoded reply (95_test_vectors.md section 2.6). -/

/-- The end state of program P2 of 95_test_vectors.md. -/
def replied : State :=
  { State.reset with
    sst := .done, plen := 8, taddr := 0x48#8,
    pbuf := [(0, 0x48#8), (2, 0x10#8), (4, 0x34#8), (5, 0x01#8), (6, 0x7F#8)] }

/-- D1. -/
theorem test_result_port :
    readReplyAddr replied = .ok 0x0048#15 ∧ readReplyReg replied = .ok 0x0010#15 ∧ readDcount replied = .ok 2 ∧
    readReplyData replied 0 = .ok 0xB4#8 ∧ readReplyData replied 1 = .ok 0x7F#8 ∧ readStatus replied = 0x010C#16 := by
  decide

/-- D7 and D8. -/
theorem test_result_port_refused :
    readReplyData replied 2 = .error .dataIndexOutOfRange ∧
    readDcount { replied with sst := .short } = .error .resultNotDone := by decide

/-- D2 and D4. -/
theorem test_reply_corners :
    dcount { replied with plen := 5 } = 0 ∧
    matchFlag { replied with pbuf := [(0, 0x48#8), (1, 0x02#8)] } = false := by decide

/-! Illegal words and reset (95_test_vectors.md sections 2.7 and 2.8). -/

theorem test_illegal_words :
    after (exec (.reservedOpF 0#8 0#8) State.reset) status = some 0x0010#16 ∧
    after (exec (.reservedOp9 0#8 0#8) State.reset) status = some 0x0010#16 ∧
    after (exec (decodeCmd 0x000016#24) (scan .s1 0 [])) status = some 0x0012#16 := by decide

theorem test_reserved_rows_alike :
    ([Instr.reservedOpA 0#8 0#8, .reservedOpB 0#8 0#8, .reservedOpC 0#8 0#8, .reservedOpD 0#8 0#8,
      .reservedOpE 0#8 0#8].map fun i => after (exec i State.reset) status) =
      [some 0x0010#16, some 0x0010#16, some 0x0010#16, some 0x0010#16, some 0x0010#16] := by decide

theorem test_reset_event :
    let s := { replied with olen := 3, codecOut := 0x0134#16, cerr := .txErr, pending := [0xF0#8, 0x77#8] }
    after (exec (.reset none) s) (fun t => (t.sst, t.plen, t.olen)) = some (.idle, 0, 0) ∧
    after (exec (.reset none) s) (fun t => (t.taddr, t.codecOut)) = some (0x00#8, 0x0000#16) ∧
    after (exec (.reset none) s) (fun t => (status t, t.pending)) = some (0x0000#16, [0xF0#8, 0x77#8]) := by decide

/-- A waiting FRAME_READ of which two bytes had left: they stay emitted, and TADDR is 0 (R240). -/
theorem test_reset_of_waiting_frame :
    after (exec (.reset (some (0x004805#24, 2))) State.reset) (fun t => (t.sent, t.taddr)) =
      some ([0xF0#8, 0x76#8], 0x00#8) := by decide

/-! Witnesses: for each statement with hypotheses, values that meet them; a statement of several clauses has one
for each, at a boundary. -/

theorem witness_resetPrefix :
    State.reset.params.framer = true ∧ isFrameCommand (decodeCmd 0x000003#24) ∧
    ([0xF0#8, 0x78#8] : List Byte) <+: commandFrame (decodeCmd 0x000003#24) State.reset :=
  ⟨rfl, ⟨0#8, 0#8, .inl rfl⟩, [0x00#8, 0x00#8, 0xF7#8], rfl⟩

theorem witness_resetEvent :
    ({ State.reset with pending := [0xF0#8] } : State).pending = 0xF0#8 :: [] ∧
    (some (0x000003#24, 2) : Option (CmdWord × Nat)) = some (0x000003#24, 2) := by decide

theorem witness_packRanges :
    (0x7F#8 ≤ 0x7F#8 ∧ 0x80#8 ≤ 0x80#8 ∧ 0x00#8 ≤ 0x7F#8) ∧ unpack 0x7F#8 0x7F#8 = unpack 0x7F#8 0x7F#8 := by decide

theorem witness_outPush :
    ((scan .idle 0 []).params.framer = true) ∧
    (({ scan .idle 0 [] with olen := 1 } : State).olen < (scan .idle 0 []).params.outMax ∧ (scan .idle 0 []).obuf.wf = true) ∧
    (({ scan .idle 0 [] with olen := 2 } : State).olen = (scan .idle 0 []).params.outMax) := by decide

theorem witness_transportAnswers :
    loaded.params.framer = true ∧ loaded.txAnswers = .accept :: [.accept] ∧ loaded.txAnswers ≠ [] ∧
    ({ loaded with txAnswers := [.error 4] } : State).txAnswers = .error 4 :: [] ∧ State.reset.txAnswers = [] ∧
    State.reset.params.framer = true := by decide

theorem witness_emitPrefix : ([0xF0#8, 0x78#8] : List Byte) <+: configFrame := ⟨[0x00#8, 0x00#8, 0xF7#8], rfl⟩

theorem witness_frameCommands :
    isFrameCommand (.frameConfig 0#8 0#8) ∧ isFrameCommand (.frameWrite 0x10#8 0#8) ∧
    isFrameCommand (.frameRead 0x48#8 0#8) :=
  ⟨⟨_, _, .inl rfl⟩, ⟨_, _, .inr (.inl rfl)⟩, ⟨_, _, .inr (.inr rfl)⟩⟩

theorem witness_frameLayouts :
    (writeMode = 0x00#8 ∨ writeMode = 0x08#8) ∧ (readMode = 0x00#8 ∨ readMode = 0x08#8) ∧
    1 < ([0x05#8, 0x80#8] : List Byte).length := by decide

theorem witness_outgoing : 1 < loaded.olen ∧ 0 < loaded.olen := by decide

theorem witness_sentFrameRows :
    (∃ addr out, Instr.frameReqWrite 4#8 [1#8] = .frameReqWrite addr out ∧
      requestFrame writeMode 4#8 [1#8] = requestFrame writeMode addr out) ∧
    (∃ addr out, Instr.frameReqRead 4#8 [1#8] = .frameReqRead addr out ∧
      requestFrame readMode 4#8 [1#8] = requestFrame readMode addr out) :=
  ⟨⟨_, _, rfl, rfl⟩, ⟨_, _, rfl, rfl⟩⟩

theorem witness_noFramer : bare.params.framer = false := by decide

theorem witness_requestFrameAddress : (0x7F#8 ≤ 0x7F#8) ∧ ¬ (0x80#8 ≤ 0x7F#8) ∧ (writeMode = writeMode ∨ writeMode = readMode) := by
  decide

theorem witness_scanStart :
    ((scan .s2 0 []).sst = .s0 ∨ (scan .s2 0 []).sst = .s1 ∨ (scan .s2 0 []).sst = .s2) ∧
    ((scan .ovf 6 []).sst ≠ .s0 ∧ (scan .ovf 6 []).sst ≠ .s1 ∧ (scan .ovf 6 []).sst ≠ .s2) := by decide

theorem witness_seekingRows :
    ((scan .s0 0 [0xF0#8]).pending = 0xF0#8 :: [] ∧ (scan .s0 0 [0xF0#8]).sst = .s0) ∧
    ((scan .s0 0 [0x77#8]).pending = 0x77#8 :: [] ∧ (0x77#8 : Byte) ≠ 0xF0#8) ∧
    ((scan .s1 0 [0x77#8]).pending = 0x77#8 :: [] ∧ (scan .s1 0 [0x77#8]).sst = .s1) ∧
    ((scan .s1 0 [0xF0#8]).pending = 0xF0#8 :: [] ∧ (0xF0#8 : Byte) ≠ 0x77#8) := by decide

theorem witness_payloadRows :
    ((scan .s2 4 [0xF7#8]).pending = 0xF7#8 :: [] ∧ 4 ≤ (scan .s2 4 [0xF7#8]).plen) ∧
    ((scan .s2 3 [0xF7#8]).sst = .s2 ∧ (scan .s2 3 [0xF7#8]).plen < 4) ∧
    ((scan .s2 5 [0xF0#8]).plen < (scan .s2 5 [0xF0#8]).params.payloadMax ∧ (scan .s2 5 [0xF0#8]).pbuf.wf = true) ∧
    ((scan .s2 6 [0xF0#8]).plen = (scan .s2 6 [0xF0#8]).params.payloadMax ∧ (0xF0#8 : Byte) ≠ 0xF7#8) := by decide

theorem witness_notScanning :
    (scan .done 4 [0xF0#8]).pending = 0xF0#8 :: [] ∧ scanning (scan .done 4 [0xF0#8]).sst = false ∧
    scanning (scan .idle 0 [0xF0#8]).sst = false := by decide

theorem witness_waits :
    ({ scan .s0 0 [] with inputs := [.offer] } : State).inputs = .offer :: [] ∧ (scan .s0 0 []).pending = [] ∧
    State.reset.inputs = [] := by decide

/-- A row that completes in a terminal state, and is neither SCAN_START nor RESET. -/
theorem witness_terminal :
    ((scan .done 4 []).sst = .done ∨ (scan .done 4 []).sst = .abort ∨ (scan .done 4 []).sst = .short ∨
      (scan .done 4 []).sst = .ovf) ∧ (∀ a b, Instr.rxErr ≠ .scanStart a b) ∧ (∀ w, Instr.rxErr ≠ .reset w) ∧
    exec .rxErr (scan .done 4 []) = .next (scan .done 4 []) :=
  ⟨.inl rfl, nofun, nofun, rfl⟩

theorem witness_resultPort :
    State.reset.sst ≠ .done ∧ replied.sst = .done ∧ 1 < (replied.plen - 4) / 2 ∧ (replied.plen - 4) / 2 ≤ 2 := by decide

theorem witness_matchFlag : matchFlag replied = true ∧
    replied.sst = .done ∧ ∃ t, exec (.frameRead 0x06#8 0#8) { replied with txAnswers := [.accept] } = .next t :=
  ⟨by decide, rfl, _, rfl⟩

theorem witness_illegalWords :
    ({ loaded with inputs := [.cmd 0x000016#24] } : State).inputs = .cmd 0x000016#24 :: [] ∧
    (0x000016#24 : CmdWord).extractLsb' 4 4 ≠ 0#4 ∧ 9 ≤ ((0x000009#24 : CmdWord).extractLsb' 0 4).toNat := by decide

/-- One command for each completion code. -/
theorem witness_completionCodes :
    isCommand (.scanStart 0#8 0#8) ∧
    after (exec (.scanStart 0#8 0#8) (scan .s0 0 [])) (·.cerr) = some .busy ∧
    after (exec (.outPush 0#8 0#8) { scan .s0 0 [] with olen := 2 }) (·.cerr) = some .outOvf ∧
    after (exec (.frameConfig 0#8 0#8) { loaded with txAnswers := [.error 0] }) (·.cerr) = some .txErr ∧
    after (exec (.frameConfig 0#8 0#8) bare) (·.cerr) = some .illegal ∧
    after (exec (.nop 0#8 0#8) bare) (·.cerr) = some .ok :=
  ⟨⟨_, rfl⟩, by decide, by decide, by decide, by decide, by decide⟩

theorem witness_writeSet :
    mayWrite (scan .s2 5 [1#8]) (.pbuf 0) (.rxS2Append 1#8) = false ∧
    mayWrite (scan .s2 5 [1#8]) (.pbuf 5) (.rxS2Append 1#8) = true ∧
    (nextOf (exec (.rxS2Append 1#8) (scan .s2 5 [1#8]))).isSome = true := by decide

theorem witness_stepCompletes :
    (nextOf (step { loaded with inputs := [.cmd 0x000003#24] })).isSome = true ∧
    (nextOf (step { scan .s0 0 [0xF0#8] with inputs := [.offer] })).isSome = true := by decide

theorem witness_commute :
    isFrameCommand (.frameRead 0x48#8 0#8) ∧ isInbound .rxS0Start ∧
    (∃ t, exec (.frameRead 0x48#8 0#8) { scan .s0 0 [0xF0#8] with txAnswers := [.accept] } = .next t) ∧
    ∃ u, exec .rxS0Start { scan .s0 0 [0xF0#8] with txAnswers := [.accept] } = .next u :=
  ⟨⟨_, _, .inr (.inr rfl)⟩, ⟨_, rfl⟩, ⟨_, rfl⟩, ⟨_, rfl⟩⟩

theorem witness_stepRunsDecoded :
    nextSignal { scan .s0 0 [0xF0#8] with inputs := [.offer] } = .ok (.rxByte 0xF0#8) ∧
    decode (scan .s0 0 [0xF0#8]).scanView (.rxByte 0xF0#8) = .ok .rxS0Start ∧
    nextSignal { State.reset with inputs := [.deliver [1#8]] } = .ok (.line [1#8]) ∧
    decode State.reset.scanView (.line [1#8]) = .error .noStartMarker ∧
    nextSignal { State.reset with inputs := [.frame 0x000003#24] } = .ok (.txFrame configFrame) ∧
    nextSignal { bare with inputs := [.frame 0x000003#24] } = .ok (.cmd 0x000003#24) := by decide

/-- A command read by its frame does what its word does, with OBUF's bytes (R124, 95_test_vectors.md section 2.4 F3). -/
theorem test_frame_event :
    after (step { loaded with inputs := [.frame 0x001004#24] }) (·.sent) =
      some [0xF0#8, 0x76#8, 0x10#8, 0x00#8, 0x00#8, 0x01#8, 0x7F#8, 0x01#8, 0xF7#8] ∧
    after (step { loaded with inputs := [.frame 0x004805#24] }) (·.taddr) = some 0x48#8 ∧
    after (step { loaded with inputs := [.frame 0x00B407#24] }) (·.codecOut) = some 0x0134#16 := by decide

/-- Delivered bytes stand behind those pending, and only the oldest is offered (R61, 95_test_vectors.md S5 and S4). -/
theorem test_deliver_event :
    after (step { scan .s0 0 [0xF0#8] with inputs := [.deliver [0x77#8, 0x12#8]] }) (fun t => (t.sst, t.pending)) =
      some (.s1, [0x77#8, 0x12#8]) ∧
    after (step { scan .s0 0 [] with inputs := [.deliver [0xF0#8, 0x77#8]] }) (fun t => (t.sst, t.pending)) =
      some (.s1, [0x77#8]) ∧
    after (step { scan .idle 0 [] with inputs := [.deliver [0xF0#8]] }) (fun t => (t.sst, t.pending)) =
      some (.idle, [0xF0#8]) := by decide

/-- One event of each kind for the four kinds of step, and a signal for each clause on the two byte streams. -/
theorem witness_stepKinds :
    (nextOf (step { loaded with inputs := [.frame 0x000003#24] })).isSome = true ∧
    (nextOf (step { scan .s2 5 [] with inputs := [.deliver [1#8]] })).isSome = true ∧
    (nextOf (step { State.reset with inputs := [.rxErr] })).isSome = true ∧
    (nextOf (step { State.reset with inputs := [.reset none] })).isSome = true ∧
    nextSignal { State.reset with inputs := [.rxErr] } = .ok .rxErr ∧
    nextSignal { State.reset with inputs := [.reset none] } = .ok (.reset none) := by decide

/-- A frame of the far end in a state that is scanning, and in one that is not. -/
theorem witness_arriving :
    (∃ addr reg data, Instr.frameReply 5#14 0#14 [] = .frameReply addr reg data ∧
      replyFrame 5#14 0#14 [] = replyFrame addr reg data) ∧ scanning (scan .done 4 []).sst = false ∧
    (scan .s0 0 [0x12#8]).pending ++ replyFrame 5#14 0#14 [] = 0x12#8 :: replyFrame 5#14 0#14 [] :=
  ⟨⟨_, _, _, rfl, rfl⟩, rfl, rfl⟩

theorem witness_selectable :
    ([Instr.rxS0Start, .rxS0Discard 0x77#8].all fun i => i.wellFormed && i.selectable ⟨.s0, 0, 6⟩) = true ∧
    ([Instr.rxS1Tag, .rxS1Discard 0xF0#8].all fun i => i.wellFormed && i.selectable ⟨.s1, 0, 6⟩) = true ∧
    ([Instr.rxS2End, .rxS2Append 0xF0#8].all fun i => i.wellFormed && i.selectable ⟨.s2, 4, 6⟩) = true ∧
    (Instr.rxS2EndShort.selectable ⟨.s2, 3, 6⟩) = true ∧ ((Instr.rxS2Overflow 0#8).selectable ⟨.s2, 6, 6⟩) = true ∧
    ((Instr.rxNotAccepted 0xF0#8).selectable ⟨.ovf, 6, 6⟩) = true ∧ (Instr.reservedRsv 1#4 6#4 0#8 0#8).wellFormed = true := by
  decide

/-- A full buffer in S2 meets the invariant, and the step that overflows it completes. -/
theorem witness_invariant :
    State.Inv { scan .s2 6 [4#8] with inputs := [.offer] } ∧
    ∃ t, step { scan .s2 6 [4#8] with inputs := [.offer] } = .next t :=
  ⟨by constructor <;> decide, _, rfl⟩

/-- A state after a reset that left other bytes in both buffers. -/
theorem witness_alike : State.Alike loaded { loaded with pbuf := [(0, 9#8)], obuf := loaded.obuf ++ [(2, 7#8)], draws := 1 } where
  rest := rfl
  payload_eq := nofun
  outgoing_eq := by decide
  canonical := by decide

/-- Program P3's stray start marker and garbage, before a frame of 4 payload bytes. -/
theorem witness_scanRecovers :
    let garbage : List Byte := [0x12#8, 0xF7#8]
    let data : List Byte := [0x05#8, 0x00#8, 0x00#8, 0x00#8]
    let s := { scan .s0 0 (0xF0#8 :: (garbage ++ (0xF0#8 :: 0x77#8 :: (data ++ [0xF7#8])))) with
      inputs := List.replicate 10 Event.offer }
    s.sst = .s0 ∧ s.plen = 0 ∧ s.pbuf.wf = true ∧ (0x77#8 : Byte) ∉ garbage ∧ (0xF7#8 : Byte) ∉ data ∧
    4 ≤ data.length ∧ data.length ≤ s.params.payloadMax ∧
    s.inputs = List.replicate (garbage.length + data.length + 4) Event.offer ++ [] := by decide

theorem witness_wellFormedReply :
    let s := { scan .s0 0 (replyFrame 0x48#14 0x10#14 [0xB4#8] ++ []) with inputs := List.replicate 9 Event.offer }
    s.sst = .s0 ∧ s.plen = 0 ∧ s.pbuf.wf = true ∧ 4 + 2 * 1 ≤ s.params.payloadMax ∧
    s.inputs = List.replicate (7 + 2 * 1) Event.offer ++ [] := by decide

theorem witness_transact :
    loaded.params.framer = true ∧ loaded.obuf.wf = true ∧ ([1#8, 5#8, 2#8] : List Byte).length ≤ loaded.params.outMax ∧
    scanning loaded.sst = false ∧ loaded.txAnswers = .accept :: .accept :: [] ∧
    loaded.txAnswers = .accept :: [.accept] := by decide

/-- Whether a session has ended, with which verdict. -/
def verdictOf (x : Session) : Option Verdict :=
  match x with
  | .ended v _ => some v
  | .running _ => none
  | .waits _ => none
  | .refused _ => none

/-- Outgoing bytes pushed by transact, and a transport that fails the first or the second frame (R213, R214). -/
theorem test_transact_write_error :
    verdictOf (transact .source 4#8 (some [1#8]) true 3 { replied with txAnswers := [.error 4] }) = some .transportError ∧
    verdictOf (transact .source 4#8 (some [1#8]) true 3 { replied with txAnswers := [.accept, .error 0] }) =
      some .transportError ∧
    verdictOf (transact .source 4#8 (some [1#8]) false 3 loaded) = some .success := by decide

/-- A read alone, over the outgoing bytes an earlier transaction left (R214): OUT_CLEAR, then the read request with no
bytes, which the transport takes or fails; the copied byte is the one that 95_test_vectors.md section 1.4 packs. -/
theorem test_transact_read_only :
    after (issue (transactCommands 0x48#8 none true) loaded) (fun t => (t.sent, t.olen, t.taddr, t.sst)) =
      some (loaded.sent ++ [0xF0#8, 0x76#8, 0x48#8, 0x08#8, 0xF7#8], 0, 0x48#8, .s0) ∧
    verdictOf (transact .source 0x48#8 none true 3 { loaded with txAnswers := [.error 2] }) = some .transportError := by
  decide

/-- R216, and a frame write without an answer (R120). -/
theorem test_transact_no_op_and_wait :
    transact .source 4#8 none false 3 replied = .ended .success replied ∧
    transact .source 4#8 none true 3 replied = .waits .waitsForTransport := by decide

/-- A mismatch under RESCAN arms the scanner again, and the host waits (R215). -/
theorem test_rescan :
    awaitReply .rescan 1 { replied with taddr := 0x05#8 } =
      .running { replied with taddr := 0x05#8, sst := .s0, plen := 0 } ∧
    awaitReply .rescan 2 { replied with taddr := 0x05#8 } = .waits .waitsForEvent := by decide

/-- A transport that takes both frames, then offers a reply of address 0x48 with the byte 0xB4. -/
def answering : State :=
  { scan .idle 0 (replyFrame 0x48#14 0x10#14 [0xB4#8]) with
    txAnswers := [.accept, .accept], inputs := List.replicate 9 Event.offer }

/-- Copying on a match, and each policy on a mismatch. -/
theorem test_transact_policies :
    verdictOf (transact .error 0x48#8 (some [0x10#8]) true 10 answering) = some (.copy [0xB4#8]) ∧
    verdictOf (transact .source 0x47#8 (some [0x10#8]) true 10 answering) = some .nothingCopied ∧
    verdictOf (transact .error 0x47#8 (some [0x10#8]) true 10 answering) = some .mismatchError ∧
    verdictOf (transact .rescan 0x47#8 (some [0x10#8]) true 11 answering) = none := by decide

/-- The same reply to a read alone, of which the transport takes one frame; under RESCAN the frame stays emitted. -/
theorem test_transact_read_only_reply :
    verdictOf (transact .error 0x48#8 none true 10 { answering with txAnswers := [.accept] }) = some (.copy [0xB4#8]) ∧
    ∃ u, transact .rescan 0x47#8 none true 10 { answering with txAnswers := [.accept] } = .running u ∧
      u.sent = [0xF0#8, 0x76#8, 0x47#8, 0x08#8, 0xF7#8] ∧ u.sst = .s0 :=
  ⟨by decide, _, rfl, by decide, rfl⟩

theorem witness_transactDelivers :
    answering.params.framer = true ∧ answering.obuf.wf = true ∧ answering.pbuf.wf = true ∧
    ([0x10#8] : List Byte).length ≤ answering.params.outMax ∧ 4 + 2 * 1 ≤ answering.params.payloadMax ∧
    scanning answering.sst = false ∧ answering.txAnswers = .accept :: .accept :: [] ∧
    answering.pending = replyFrame 0x48#14 0x10#14 [0xB4#8] ++ [] ∧
    ({ answering with txAnswers := [.accept] } : State).txAnswers = .accept :: [] ∧
    answering.inputs = List.replicate (7 + 2 * 1) Event.offer ++ [] ∧
    (0x48#14 : BitVec 14).toNat = (0x48#8 : Byte).toNat ∧ (0x48#14 : BitVec 14).toNat ≠ (0x47#8 : Byte).toNat := by decide

theorem witness_transactFails :
    loaded.params.framer = true ∧ loaded.obuf.wf = true ∧ ([1#8] : List Byte).length ≤ loaded.params.outMax ∧
    ({ loaded with txAnswers := [.error 4] } : State).txAnswers = .error 4 :: [] ∧
    ({ loaded with txAnswers := [.accept, .error 0] } : State).txAnswers = .accept :: .error 0 :: [] ∧
    loaded.txAnswers = .accept :: [.accept] := by decide

theorem witness_hostWaits :
    doneLvl (scan .s0 0 []) = false ∧
    (nextOf (step { scan .s0 0 [0xF0#8] with inputs := [.offer] })).isSome = true ∧
    replied.sst = .done ∧ matchFlag { replied with taddr := 0x05#8 } = false ∧
    doneLvl replied = true ∧ verdict .rescan replied ≠ .rescan := by decide

theorem witness_hostVerdict :
    verdict .error State.reset = .waiting ∧ verdict .error { replied with sst := .abort } = .transportError ∧
    verdict .error { replied with sst := .ovf } = .malformedReply ∧
    verdict .error replied = .copy [0xB4#8, 0x7F#8] ∧
    verdict .source { replied with taddr := 0x05#8 } = .nothingCopied ∧
    verdict .rescan { replied with taddr := 0x05#8 } = .rescan := by decide

end Sys2Proof.Tests
end

/-! What the oldest event presents, and the step it makes. -/

namespace Sys2Proof.Machine

/-- With its oldest event named, using it up leaves the later ones. -/
theorem dropInput_eq {s : State} {e : Event} {rest : List Event} (h : s.inputs = e :: rest) :
    dropInput s = { s with inputs := rest } := by simp [dropInput, h]

theorem nextSignal_none {s : State} (h : s.inputs = []) : nextSignal s = .error .waitsForEvent := by
  simp [nextSignal, h]

theorem nextSignal_cmd {s : State} {w : CmdWord} {rest : List Event} (h : s.inputs = .cmd w :: rest) :
    nextSignal s = .ok (.cmd w) := by simp [nextSignal, h]

theorem nextSignal_offer {s : State} {byte : Byte} {later : List Byte} {rest : List Event}
    (h : s.inputs = .offer :: rest) (hp : s.pending = byte :: later) : nextSignal s = .ok (.rxByte byte) := by
  simp [nextSignal, h, hp]

theorem nextSignal_offer_nil {s : State} {rest : List Event} (h : s.inputs = .offer :: rest) (hp : s.pending = []) :
    nextSignal s = .error .waitsForByte := by simp [nextSignal, h, hp]

theorem nextSignal_rxErr {s : State} {rest : List Event} (h : s.inputs = .rxErr :: rest) :
    nextSignal s = .ok .rxErr := by simp [nextSignal, h]

theorem nextSignal_reset {s : State} {waiting : Option (CmdWord × Nat)} {rest : List Event}
    (h : s.inputs = .reset waiting :: rest) : nextSignal s = .ok (.reset waiting) := by simp [nextSignal, h]

theorem nextSignal_deliver {s : State} {bytes : List Byte} {rest : List Event} (h : s.inputs = .deliver bytes :: rest) :
    nextSignal s = .ok (.line bytes) := by simp [nextSignal, h]

/-- A command that sends no frame is read by its word. -/
theorem nextSignal_frame_word {s : State} {w : CmdWord} {rest : List Event} (h : s.inputs = .frame w :: rest)
    (hf : commandFrame (decodeCmd w) s = []) : nextSignal s = .ok (.cmd w) := by
  simp [nextSignal, h, frameSignal, hf]

/-- A command that sends a frame is read by that frame. -/
theorem nextSignal_frame_bytes {s : State} {w : CmdWord} {rest : List Event} (h : s.inputs = .frame w :: rest)
    (hf : commandFrame (decodeCmd w) s ≠ []) :
    nextSignal s = .ok (.txFrame (commandFrame (decodeCmd w) s)) := by
  obtain ⟨-, hnil⟩ | hframe := frameSignal_eq w s
  · exact absurd hnil hf
  · simp [nextSignal, h, hframe]

/-- Where the presented signal decodes, the step runs the row (R11, R87). -/
theorem step_decoded {s : State} {sig : Signal} {i : Instr} (hs : nextSignal s = .ok sig)
    (hd : decode s.scanView sig = .ok i) : step s = exec i (dropInput s) := by
  simp [step, fetch, hs, hd]

/-- Where nothing is presented, the step waits (R12). -/
theorem step_waits {s : State} {f : Fault} (hs : nextSignal s = .error f) : step s = .fault f := by
  simp [step, fetch, hs]

/-- With no byte at the transport the offer waits (R170). -/
theorem offerOldest_nil {s : State} (h : s.pending = []) : offerOldest s = .fault .waitsForByte := by
  simp [offerOldest, h]

/-- The rows of the far end's frames are deliveries: their bytes arrive, and the oldest pending byte is offered. -/
theorem exec_decodeLine {bytes : List Byte} {i : Instr} (h : decodeLine bytes = .ok i) (s : State) :
    exec i s = offerOldest (arrive bytes s) := by
  obtain ⟨addr, reg, data, rfl, rfl⟩ | ⟨rest, rfl, rfl⟩ := decodeLine_ok h <;> rfl

/-- Delivered bytes arrive and the oldest pending byte is offered, whether or not they are one of the far end's
frames (R34(a), R61). -/
theorem step_line {s : State} {bytes : List Byte} (hs : nextSignal s = .ok (.line bytes)) :
    step s = offerOldest (arrive bytes (dropInput s)) := by
  cases hd : decodeLine bytes with
  | ok i => rw [step_decoded hs hd, exec_decodeLine hd]
  | error e =>
    cases hp : s.pending ++ bytes with
    | nil =>
      rw [offerOldest_nil (by simpa using hp)]
      simp [step, fetch, hs, decode, hd, fetchUndecoded, hp]
    | cons byte later =>
      rw [offerOldest_cons (byte := byte) (later := later) (by simpa using hp)]
      simp [step, fetch, hs, decode, hd, fetchUndecoded, hp, State.scanView]

/-- A step with no event to come waits for one. -/
theorem step_none {s : State} (h : s.inputs = []) : step s = .fault .waitsForEvent :=
  step_waits (nextSignal_none h)

theorem step_cmd {s : State} {w : CmdWord} {rest : List Event} (h : s.inputs = .cmd w :: rest) :
    step s = exec (decodeCmd w) { s with inputs := rest } := by
  rw [step_decoded (nextSignal_cmd h) rfl, dropInput_eq h]

/-- A command read by the frame it sends is the step of its word (log entry 6). -/
theorem step_frame {s : State} {w : CmdWord} {rest : List Event} (h : s.inputs = .frame w :: rest) :
    step s = exec (decodeCmd w) { s with inputs := rest } := by
  rw [← dropInput_eq h]
  by_cases hf : commandFrame (decodeCmd w) s = []
  · exact step_decoded (nextSignal_frame_word h hf) rfl
  · obtain ⟨row, hrow, hexec, -⟩ := commandFrame_row hf
    rw [step_decoded (nextSignal_frame_bytes h hf) hrow]
    exact hexec (dropInput s) rfl

theorem step_offer {s : State} {rest : List Event} (h : s.inputs = .offer :: rest) :
    step s = offerOldest { s with inputs := rest } := by
  rw [← dropInput_eq h]
  cases hp : s.pending with
  | nil => rw [step_waits (nextSignal_offer_nil h hp), offerOldest_nil (by exact hp)]
  | cons byte later => rw [step_decoded (nextSignal_offer h hp) rfl, offerOldest_cons (s := dropInput s) hp]; rfl

theorem step_deliver {s : State} {bytes : List Byte} {rest : List Event} (h : s.inputs = .deliver bytes :: rest) :
    step s = offerOldest (arrive bytes { s with inputs := rest }) := by
  rw [step_line (nextSignal_deliver h), dropInput_eq h]

theorem step_rxErr {s : State} {rest : List Event} (h : s.inputs = .rxErr :: rest) :
    step s = exec .rxErr { s with inputs := rest } := by
  rw [step_decoded (nextSignal_rxErr h) rfl, dropInput_eq h]

theorem step_reset {s : State} {waiting : Option (CmdWord × Nat)} {rest : List Event}
    (h : s.inputs = .reset waiting :: rest) : step s = exec (.reset waiting) { s with inputs := rest } := by
  rw [step_decoded (nextSignal_reset h) rfl, dropInput_eq h]

/-- Bytes that arrive before an offer stand behind those pending, and the first of them all is offered (R34(a), R87). -/
theorem offerOldest_arrive {s : State} {bytes : List Byte} {byte : Byte} {later : List Byte}
    (h : s.pending ++ bytes = byte :: later) :
    offerOldest (arrive bytes s) = exec (decodeRx s.scanView byte) { s with pending := byte :: later } := by
  rw [offerOldest_cons (s := arrive bytes s) h, arrive, h]
  rfl

/-- The offer of a byte and the delivery of bytes are one kind of step (R11(b)). -/
theorem step_offer_or_deliver {s : State} {bytes : List Byte} {rest : List Event}
    (h : (s.inputs = .offer :: rest ∧ bytes = []) ∨ s.inputs = .deliver bytes :: rest) :
    step s = offerOldest (arrive bytes { s with inputs := rest }) := by
  obtain ⟨hi, rfl⟩ | hi := h
  · rw [step_offer hi, arrive, List.append_nil]
  · exact step_deliver hi

/-- Settles O50: each kind of event by the lemma about its step. -/
theorem everyStepIsOneOfFourKinds : Obligations.EveryStepIsOneOfFourKinds := by
  unfold Obligations.EveryStepIsOneOfFourKinds
  intro s rest
  refine ⟨fun w h => h.elim step_cmd step_frame, fun bytes h => ⟨fun byte later hp => ?_, fun hp => ?_⟩,
    step_rxErr, fun waiting => step_reset, step_none⟩
  · rw [step_offer_or_deliver h]
    exact offerOldest_arrive hp
  · rw [step_offer_or_deliver h]
    exact offerOldest_nil hp

/-- Settles O40: a decoded signal runs its row, and delivered bytes that are no frame arrive before the offer. -/
theorem stepRunsTheDecodedInstruction : Obligations.StepRunsTheDecodedInstruction := by
  unfold Obligations.StepRunsTheDecodedInstruction
  refine ⟨fun s sig i => step_decoded, fun s rest => ⟨fun w => nextSignal_cmd, fun byte later => nextSignal_offer,
    nextSignal_rxErr, fun waiting => nextSignal_reset,
    fun w h => ⟨nextSignal_frame_word h, nextSignal_frame_bytes h⟩, fun bytes => nextSignal_deliver⟩,
    fun s bytes e hs _ => ⟨fun byte later hp => ?_, fun hp => ?_⟩⟩
  · rw [step_line hs]
    exact offerOldest_arrive (s := dropInput s) hp
  · rw [step_line hs]
    exact offerOldest_nil hp

end Sys2Proof.Machine

/-! The scanner's rows, and the row that R87 gives a byte in each scanner state. -/

namespace Sys2Proof.Machine

/-- Accepting the oldest pending byte leaves the later ones. -/
theorem takeByte_eq {s : State} {byte : Byte} {later : List Byte} (hp : s.pending = byte :: later) :
    takeByte s = { s with pending := later } := by simp [takeByte, hp]

/-- A row of the decode table takes the byte that the transport offers where its condition holds. -/
theorem rxRow_offered {byte : Byte} {later : List Byte} {cond : Bool} {s t : State}
    (hp : s.pending = byte :: later) (hc : cond = true) : rxRow byte cond s t = .next t :=
  rxRow_next.mpr ⟨⟨by simp [hp], hc⟩, rfl⟩

theorem exec_rxS0Start {s : State} {later : List Byte} (hp : s.pending = startMarker :: later) (hs : s.sst = .s0) :
    exec .rxS0Start s = .next { s with pending := later, sst := .s1 } := by
  simp only [exec, execRxS0Start, takeByte_eq hp]
  exact rxRow_offered hp (by simp [hs])

theorem exec_rxS0Discard {s : State} {byte : Byte} {later : List Byte} (hp : s.pending = byte :: later)
    (hs : s.sst = .s0) (hb : byte ≠ startMarker) : exec (.rxS0Discard byte) s = .next { s with pending := later } := by
  simp only [exec, execRxS0Discard, takeByte_eq hp]
  exact rxRow_offered hp (by simp [hs, hb])

theorem exec_rxS1Tag {s : State} {later : List Byte} (hp : s.pending = i2cReply :: later) (hs : s.sst = .s1) :
    exec .rxS1Tag s = .next { s with pending := later, sst := .s2 } := by
  simp only [exec, execRxS1Tag, takeByte_eq hp]
  exact rxRow_offered hp (by simp [hs])

theorem exec_rxS1Discard {s : State} {byte : Byte} {later : List Byte} (hp : s.pending = byte :: later)
    (hs : s.sst = .s1) (hb : byte ≠ i2cReply) : exec (.rxS1Discard byte) s = .next { s with pending := later } := by
  simp only [exec, execRxS1Discard, takeByte_eq hp]
  exact rxRow_offered hp (by simp [hs, hb])

theorem exec_rxS2End {s : State} {later : List Byte} (hp : s.pending = endMarker :: later) (hs : s.sst = .s2)
    (hl : 4 ≤ s.plen) : exec .rxS2End s = .next { s with pending := later, sst := .done } := by
  simp only [exec, execRxS2End, takeByte_eq hp]
  exact rxRow_offered hp (by simp [hs, hl])

theorem exec_rxS2EndShort {s : State} {later : List Byte} (hp : s.pending = endMarker :: later) (hs : s.sst = .s2)
    (hl : s.plen < 4) : exec .rxS2EndShort s = .next { s with pending := later, sst := .short } := by
  simp only [exec, execRxS2EndShort, takeByte_eq hp]
  exact rxRow_offered hp (by simp [hs, hl])

theorem exec_rxS2Append {s : State} {byte : Byte} {later : List Byte} (hp : s.pending = byte :: later)
    (hs : s.sst = .s2) (hb : byte ≠ endMarker) (hl : s.plen < s.params.payloadMax) :
    exec (.rxS2Append byte) s =
      .next { s with pending := later, pbuf := s.pbuf.write s.plen byte, plen := s.plen + 1 } := by
  simp only [exec, execRxS2Append, takeByte_eq hp]
  exact rxRow_offered hp (by simp [hs, hb, hl])

theorem exec_rxS2Overflow {s : State} {byte : Byte} {later : List Byte} (hp : s.pending = byte :: later)
    (hs : s.sst = .s2) (hb : byte ≠ endMarker) (hl : s.params.payloadMax ≤ s.plen) :
    exec (.rxS2Overflow byte) s = .next { s with pending := later, sst := .ovf } := by
  simp only [exec, execRxS2Overflow, takeByte_eq hp]
  exact rxRow_offered hp (by simp [hs, hb, hl])

theorem exec_rxNotAccepted {s : State} {byte : Byte} {later : List Byte} (hp : s.pending = byte :: later)
    (hs : scanning s.sst = false) : exec (.rxNotAccepted byte) s = .next s :=
  rxRow_offered hp (by simp [hs])

theorem decodeRx_s0 {s : State} (hs : s.sst = .s0) (byte : Byte) :
    decodeRx s.scanView byte = if byte = startMarker then .rxS0Start else .rxS0Discard byte := by
  simp [decodeRx, State.scanView, hs]

theorem decodeRx_s1 {s : State} (hs : s.sst = .s1) (byte : Byte) :
    decodeRx s.scanView byte = if byte = i2cReply then .rxS1Tag else .rxS1Discard byte := by
  simp [decodeRx, State.scanView, hs]

theorem decodeRx_s2 {s : State} (hs : s.sst = .s2) (byte : Byte) :
    decodeRx s.scanView byte =
      if byte = endMarker then (if 4 ≤ s.plen then .rxS2End else .rxS2EndShort)
      else if s.plen < s.params.payloadMax then .rxS2Append byte else .rxS2Overflow byte := by
  simp [decodeRx, State.scanView, hs]

theorem decodeRx_not_scanning {s : State} (hs : scanning s.sst = false) (byte : Byte) :
    decodeRx s.scanView byte = .rxNotAccepted byte := by
  cases h : s.sst <;> simp_all [decodeRx, State.scanView, scanning]

/-- The scanner is in S0, S1 or S2, or it is not scanning (R21). -/
theorem scanning_cases (sst : Sst) : sst = .s0 ∨ sst = .s1 ∨ sst = .s2 ∨ scanning sst = false := by
  cases sst <;> simp [scanning]

/-- Outside a scan SCAN_START arms the scanner (R150). -/
theorem exec_scanStart {s : State} (a b : Byte) (hs : scanning s.sst = false) :
    exec (.scanStart a b) s = .next { s with sst := .s0, plen := 0, cerr := .ok } := by
  simp [exec, execScanStart, hs, complete]

/-- A scanning block has DONE_LVL 0 (R21, R30). -/
theorem doneLvl_of_scanning {s : State} (h : scanning s.sst = true) : doneLvl s = false := by
  cases hs : s.sst <;> simp_all [scanning, doneLvl, sstCode]

end Sys2Proof.Machine

/-! No step is refused. -/

namespace Sys2Proof.Machine

/-- A frame command completes, or waits for the transport's answer in a block with a framer (R120). -/
theorem withFramer_emitFrame {bytes : List Byte} {s u : State} (hu : u.txAnswers = s.txAnswers) :
    (∃ t, withFramer s (emitFrame bytes u) = .next t) ∨
    (withFramer s (emitFrame bytes u) = .fault .waitsForTransport ∧ s.txAnswers = [] ∧ s.params.framer = true) := by
  cases hf : s.params.framer with
  | false => exact .inl ⟨_, withFramer_off hf _⟩
  | true =>
    rw [withFramer_on hf]
    match ha : s.txAnswers with
    | [] => exact .inr ⟨emitFrame_waits (hu.trans ha), rfl, rfl⟩
    | .accept :: later => exact .inl ⟨_, emitFrame_accept (hu.trans ha)⟩
    | .error taken :: later => exact .inl ⟨_, emitFrame_error (hu.trans ha)⟩

/-- Every command word decodes to a command row (R70 to R73). -/
theorem isCommand_decodeCmd (w : CmdWord) : isCommand (decodeCmd w) := by
  simp only [decodeCmd, decodeOp]
  repeat' split
  all_goals exact ⟨_, rfl⟩

/-- A framer step whose own run completes does so with or without a framer. -/
theorem withFramer_completes {s : State} {run : Host.Outcome State Fault Refusal} (h : ∃ t, run = .next t) :
    ∃ t, withFramer s run = .next t := by
  cases hf : s.params.framer with
  | false => exact ⟨_, withFramer_off hf run⟩
  | true => rwa [withFramer_on hf]

/-- A command row completes, or is a frame command that waits for the transport (R12, R120). -/
theorem exec_command {i : Instr} (hi : isCommand i) (s : State) :
    (∃ t, exec i s = .next t) ∨
    (exec i s = .fault .waitsForTransport ∧ s.txAnswers = [] ∧ s.params.framer = true ∧ isFrameCommand i) := by
  obtain ⟨w, hw⟩ := hi
  cases i with
  | nop a b | pack a b | unpack a b | reservedOp9 a b | reservedOpA a b | reservedOpB a b | reservedOpC a b
  | reservedOpD a b | reservedOpE a b | reservedOpF a b | reservedRsv rsv op a b => exact .inl ⟨_, rfl⟩
  | outClear a b => exact .inl (withFramer_completes ⟨_, rfl⟩)
  | outPush a b =>
    refine .inl (withFramer_completes ?_)
    split
    · exact ⟨_, rfl⟩
    · exact ⟨_, rfl⟩
  | scanStart a b =>
    refine .inl ?_
    simp only [exec, execScanStart]
    split
    · exact ⟨_, rfl⟩
    · exact ⟨_, rfl⟩
  | frameConfig a b =>
    exact (withFramer_emitFrame rfl).imp_right fun ⟨hw, ha, hf⟩ => ⟨hw, ha, hf, a, b, .inl rfl⟩
  | frameWrite a b =>
    exact (withFramer_emitFrame rfl).imp_right fun ⟨hw, ha, hf⟩ => ⟨hw, ha, hf, a, b, .inr (.inl rfl)⟩
  | frameRead a b =>
    exact (withFramer_emitFrame (s := s) (u := { s with taddr := a }) rfl).imp_right
      fun ⟨hw, ha, hf⟩ => ⟨hw, ha, hf, a, b, .inr (.inr rfl)⟩
  | frameI2cConfig | frameReqWrite | frameReqRead | frameReply | frameReportFirmware | rxS0Start | rxS0Discard
  | rxS1Tag | rxS1Discard | rxS2End | rxS2EndShort | rxS2Append | rxS2Overflow | rxNotAccepted | rxErr | reset =>
    cases hw

/-- The row that R87 gives an offered byte completes, in every state. -/
theorem exec_decodeRx_completes {s : State} {byte : Byte} {later : List Byte} (hp : s.pending = byte :: later) :
    ∃ t, exec (decodeRx s.scanView byte) s = .next t := by
  obtain hs | hs | hs | hs := scanning_cases s.sst
  · rw [decodeRx_s0 hs]
    split
    · rename_i hb; subst hb
      exact ⟨_, exec_rxS0Start hp hs⟩
    · exact ⟨_, exec_rxS0Discard hp hs ‹_›⟩
  · rw [decodeRx_s1 hs]
    split
    · rename_i hb; subst hb
      exact ⟨_, exec_rxS1Tag hp hs⟩
    · exact ⟨_, exec_rxS1Discard hp hs ‹_›⟩
  · rw [decodeRx_s2 hs]
    split
    · rename_i hb; subst hb
      split
      · exact ⟨_, exec_rxS2End hp hs ‹_›⟩
      · exact ⟨_, exec_rxS2EndShort hp hs (by omega)⟩
    · split
      · exact ⟨_, exec_rxS2Append hp hs ‹_› ‹_›⟩
      · exact ⟨_, exec_rxS2Overflow hp hs ‹_› (by omega)⟩
  · rw [decodeRx_not_scanning hs]
    exact ⟨_, exec_rxNotAccepted hp hs⟩

/-- The offer of a byte completes, or waits for one (R151, R170). -/
theorem offerOldest_completes_or_waits (s : State) :
    (∃ t, offerOldest s = .next t) ∨ (offerOldest s = .fault .waitsForByte ∧ s.pending = []) := by
  cases hp : s.pending with
  | nil => exact .inr ⟨offerOldest_nil hp, rfl⟩
  | cons byte later =>
    rw [offerOldest_cons hp]
    exact .inl (exec_decodeRx_completes hp)

/-- Settles O51: a command completes or waits for the transport, an offer completes or waits for a byte, and a read
error and a reset complete. -/
theorem noStepIsRefused : Obligations.NoStepIsRefused := by
  unfold Obligations.NoStepIsRefused
  intro s
  have command : ∀ w rest, step s = exec (decodeCmd w) { s with inputs := rest } →
      (∃ t, step s = .next t) ∨
      (step s = .fault .waitsForTransport ∧ s.txAnswers = [] ∧ s.params.framer = true) := by
    intro w rest h
    rw [h]
    exact (exec_command (isCommand_decodeCmd w) _).imp_right fun ⟨hw, ha, hf, _⟩ => ⟨hw, ha, hf⟩
  have offer : ∀ bytes rest, step s = offerOldest (arrive bytes { s with inputs := rest }) →
      (∃ t, step s = .next t) ∨ (step s = .fault .waitsForByte ∧ s.pending = []) := by
    intro bytes rest h
    rw [h]
    exact (offerOldest_completes_or_waits _).imp_right fun ⟨hw, hp⟩ => ⟨hw, (List.append_eq_nil_iff.mp hp).1⟩
  match hi : s.inputs with
  | [] => exact .inr (.inl ⟨step_none hi, rfl⟩)
  | .cmd w :: rest => exact (command w rest (step_cmd hi)).imp_right fun h => .inr (.inr h)
  | .frame w :: rest => exact (command w rest (step_frame hi)).imp_right fun h => .inr (.inr h)
  | .offer :: rest =>
    exact (offer [] rest (step_offer_or_deliver (.inl ⟨hi, rfl⟩))).imp_right fun h => .inr (.inl h)
  | .deliver bytes :: rest => exact (offer bytes rest (step_deliver hi)).imp_right fun h => .inr (.inl h)
  | .rxErr :: rest => exact .inl ⟨_, step_rxErr hi⟩
  | .reset waiting :: rest => exact .inl ⟨_, step_reset hi⟩

end Sys2Proof.Machine

/-! The host's wait for DONE_LVL. -/

namespace Sys2Proof.Machine

/-- The host's verdict is that it waits exactly while DONE_LVL is 0 (R214). -/
theorem verdict_eq_waiting_iff (policy : MismatchPolicy) (s : State) :
    verdict policy s = .waiting ↔ doneLvl s = false := by
  cases h : s.sst
  case done => cases policy <;> simp only [verdict, doneLvl, h, mismatchVerdict] <;> split <;> simp [sstCode]
  all_goals simp [verdict, doneLvl, h, sstCode]

/-- In DONE with MATCH 1 the host copies the reply's data (R215). -/
theorem verdict_match {policy : MismatchPolicy} {s : State} (h : matchFlag s = true) :
    verdict policy s = .copy (replyBytes s) := by
  have hd : s.sst = .done := by simp only [matchFlag, decide_eq_true_eq] at h; exact h.1
  simp [verdict, hd, h]

/-- In DONE with MATCH 0 the host follows its policy (R8, R215). -/
theorem verdict_mismatch {policy : MismatchPolicy} {s : State} (hd : s.sst = .done) (h : matchFlag s = false) :
    verdict policy s = mismatchVerdict policy := by
  simp [verdict, hd, h]

/-- While DONE_LVL is 0 the host's wait goes on from the machine's next step. -/
theorem awaitReply_next {policy : MismatchPolicy} {n : Nat} {s t : State} (hd : doneLvl s = false)
    (h : step s = .next t) : awaitReply policy (n + 1) s = awaitReply policy n t := by
  simp [awaitReply, (verdict_eq_waiting_iff policy s).mpr hd, h]

/-- While DONE_LVL is 0 the host waits with the machine (R12). -/
theorem awaitReply_fault {policy : MismatchPolicy} {n : Nat} {s : State} {f : Fault} (hd : doneLvl s = false)
    (h : step s = .fault f) : awaitReply policy (n + 1) s = .waits f := by
  simp [awaitReply, (verdict_eq_waiting_iff policy s).mpr hd, h]

/-- A mismatch under RESCAN arms the scanner again, and the wait goes on (R215). -/
theorem awaitReply_rescan {n : Nat} {s : State} (hd : s.sst = .done) (h : matchFlag s = false) :
    awaitReply .rescan (n + 1) s = awaitReply .rescan n { s with sst := .s0, plen := 0, cerr := .ok } := by
  have hv : verdict .rescan s = .rescan := verdict_mismatch hd h
  simp [awaitReply, hv, exec_scanStart 0#8 0#8 (s := s) (by rw [hd]; rfl)]

/-- Every verdict but waiting and rescanning ends the transaction in the state it is given in (R214, R215). -/
theorem awaitReply_ended {policy : MismatchPolicy} {n : Nat} {s : State} (hd : doneLvl s = true)
    (hr : verdict policy s ≠ .rescan) : awaitReply policy (n + 1) s = .ended (verdict policy s) s := by
  have hw : verdict policy s ≠ .waiting := by simp [verdict_eq_waiting_iff, hd]
  unfold awaitReply
  split <;> simp_all

/-- Settles O53: the host's wait, by DONE_LVL and the verdict. -/
theorem hostWaitsAndRescans : Obligations.HostWaitsAndRescans := by
  unfold Obligations.HostWaitsAndRescans
  exact fun policy n s => ⟨fun t => awaitReply_next, fun f => awaitReply_fault, awaitReply_rescan, awaitReply_ended⟩

end Sys2Proof.Machine

/-! A run of bytes written into a buffer. -/

namespace Sys2Proof.Machine

/-- A buffer after bytes have been written one behind the other from index `a` up. -/
def Memory.writeFrom (m : Memory) (a : Nat) : List Byte → Memory
  | [] => m
  | byte :: rest => Memory.writeFrom (m.write a byte) (a + 1) rest

@[simp] theorem Memory.writeFrom_nil (m : Memory) (a : Nat) : m.writeFrom a [] = m := rfl

@[simp] theorem Memory.writeFrom_cons (m : Memory) (a : Nat) (byte : Byte) (rest : List Byte) :
    m.writeFrom a (byte :: rest) = (m.write a byte).writeFrom (a + 1) rest := rfl

/-- Writing from `a` up leaves the bytes below `a` alone. -/
theorem Memory.read_writeFrom_lt (m : Memory) {a i : Nat} (h : i < a) (bytes : List Byte) :
    (m.writeFrom a bytes).read i = m.read i := by
  induction bytes generalizing m a with
  | nil => rfl
  | cons byte rest ih => rw [writeFrom_cons, ih _ (by omega), Memory.read_write_other (by omega)]

/-- The bytes written from `a` up are read back in order. -/
theorem Memory.read_writeFrom {m : Memory} (hm : m.wf = true) (a : Nat) (bytes : List Byte) {k : Nat}
    (h : k < bytes.length) : (m.writeFrom a bytes).read (a + k) = bytes[k] := by
  induction bytes generalizing m a k with
  | nil => simp at h
  | cons byte rest ih =>
    cases k with
    | zero => exact (Memory.read_writeFrom_lt _ (Nat.lt_succ_self a) rest).trans (Memory.read_write_same hm a byte)
    | succ k => simpa [Nat.add_right_comm, ← Nat.add_assoc] using ih (Memory.wf_write hm a byte) (a + 1) (Nat.lt_of_succ_lt_succ h)

/-- A buffer written from index 0 up reads as the bytes written. -/
theorem Memory.map_read_writeFrom {m : Memory} (hm : m.wf = true) (bytes : List Byte) :
    (List.range bytes.length).map (m.writeFrom 0 bytes).read = bytes := by
  refine List.ext_getElem (by simp) fun k _ hk => ?_
  simpa using Memory.read_writeFrom hm 0 bytes hk

end Sys2Proof.Machine

/-! The scan of a frame that the transport offers byte by byte. -/

namespace Sys2Proof.Machine

/-- `n` steps during which DONE_LVL is 0, from the first state to the last. -/
inductive ScanRun : Nat → State → State → Prop where
  /-- no step -/
  | refl (s : State) : ScanRun 0 s s
  /-- one more step in front, taken while DONE_LVL is 0 -/
  | head {n : Nat} {s t u : State} (hd : doneLvl s = false) (h : step s = .next t) (run : ScanRun n t u) :
      ScanRun (n + 1) s u

/-- The machine makes the steps of such a run. -/
theorem ScanRun.runSteps {n : Nat} {s t : State} (h : ScanRun n s t) : runSteps n s = .next t := by
  induction h with
  | refl => rfl
  | head _ hstep _ ih => simpa [Machine.runSteps, hstep] using ih

/-- The host waits through such a run (R214). -/
theorem ScanRun.awaitReply {n : Nat} {s t : State} (h : ScanRun n s t) (policy : MismatchPolicy) (k : Nat) :
    awaitReply policy (n + k) s = awaitReply policy k t := by
  induction h with
  | refl => rw [Nat.zero_add]
  | head hd hstep _ ih => rw [Nat.add_right_comm, awaitReply_next hd hstep, ih]

/-- An offered byte is taken by the row that R87 gives it. -/
theorem step_offer_cons {s : State} {byte : Byte} {later : List Byte} {rest : List Event}
    (hi : s.inputs = .offer :: rest) (hp : s.pending = byte :: later) :
    step s = exec (decodeRx s.scanView byte) { s with inputs := rest } := by
  rw [step_offer hi, offerOldest_cons (s := { s with inputs := rest }) hp]
  rfl

theorem step_s0_start {s : State} {later : List Byte} {rest : List Event} (hs : s.sst = .s0)
    (hi : s.inputs = .offer :: rest) (hp : s.pending = startMarker :: later) :
    step s = .next { s with sst := .s1, pending := later, inputs := rest } := by
  rw [step_offer_cons hi hp, decodeRx_s0 hs, if_pos rfl]
  exact exec_rxS0Start hp hs

theorem step_s1_tag {s : State} {later : List Byte} {rest : List Event} (hs : s.sst = .s1)
    (hi : s.inputs = .offer :: rest) (hp : s.pending = i2cReply :: later) :
    step s = .next { s with sst := .s2, pending := later, inputs := rest } := by
  rw [step_offer_cons hi hp, decodeRx_s1 hs, if_pos rfl]
  exact exec_rxS1Tag hp hs

theorem step_s2_append {s : State} {byte : Byte} {later : List Byte} {rest : List Event} (hs : s.sst = .s2)
    (hi : s.inputs = .offer :: rest) (hp : s.pending = byte :: later) (hb : byte ≠ endMarker)
    (hl : s.plen < s.params.payloadMax) :
    step s = .next { s with plen := s.plen + 1, pbuf := s.pbuf.write s.plen byte, pending := later, inputs := rest } := by
  rw [step_offer_cons hi hp, decodeRx_s2 hs, if_neg hb, if_pos hl]
  exact exec_rxS2Append hp hs hb hl

theorem step_s2_end {s : State} {later : List Byte} {rest : List Event} (hs : s.sst = .s2)
    (hi : s.inputs = .offer :: rest) (hp : s.pending = endMarker :: later) (hl : 4 ≤ s.plen) :
    step s = .next { s with sst := .done, pending := later, inputs := rest } := by
  rw [step_offer_cons hi hp, decodeRx_s2 hs, if_pos rfl, if_pos hl]
  exact exec_rxS2End hp hs hl

/-- The payload and its end marker, offered byte by byte in S2, are stored behind what PBUF holds, and the scan is
done (R156, R158). -/
theorem scanRun_payload (bytes : List Byte) {s : State} {later : List Byte} {rest : List Event} (hs : s.sst = .s2)
    (hend : endMarker ∉ bytes) (hlong : 4 ≤ s.plen + bytes.length)
    (hfit : s.plen + bytes.length ≤ s.params.payloadMax) (hp : s.pending = bytes ++ endMarker :: later)
    (hi : s.inputs = List.replicate (bytes.length + 1) Event.offer ++ rest) :
    ScanRun (bytes.length + 1) s
      { s with sst := .done, plen := s.plen + bytes.length, pbuf := s.pbuf.writeFrom s.plen bytes,
               pending := later, inputs := rest } := by
  have hd : doneLvl s = false := doneLvl_of_scanning (by rw [hs]; rfl)
  induction bytes generalizing s with
  | nil => exact .head hd (step_s2_end hs hi hp hlong) (.refl _)
  | cons byte more ih =>
    rw [List.mem_cons, not_or] at hend
    rw [List.length_cons] at hlong hfit hi
    refine .head hd (step_s2_append hs hi hp (Ne.symm hend.1) (by omega)) ?_
    rw [List.length_cons, show s.plen + (more.length + 1) = s.plen + 1 + more.length by omega]
    exact ih hs hend.2 (by simp only; omega) (by simp only; omega) rfl rfl hd

/-- A frame with the reply's tag, offered byte by byte in S0, leaves its payload in PBUF and the scan done (R152, R154,
R156, R158). -/
theorem scanRun_frame (bytes : List Byte) {s : State} {later : List Byte} {rest : List Event} (hs : s.sst = .s0)
    (h0 : s.plen = 0) (hend : endMarker ∉ bytes) (hlong : 4 ≤ bytes.length) (hfit : bytes.length ≤ s.params.payloadMax)
    (hp : s.pending = startMarker :: i2cReply :: (bytes ++ endMarker :: later))
    (hi : s.inputs = List.replicate (bytes.length + 3) Event.offer ++ rest) :
    ScanRun (bytes.length + 3) s
      { s with sst := .done, plen := bytes.length, pbuf := s.pbuf.writeFrom 0 bytes, pending := later, inputs := rest } := by
  have hd : doneLvl s = false := doneLvl_of_scanning (by rw [hs]; rfl)
  have payload := scanRun_payload bytes
    (s := { s with sst := .s2, plen := 0, pending := bytes ++ endMarker :: later,
                   inputs := List.replicate (bytes.length + 1) Event.offer ++ rest })
    rfl hend (by simpa) (by simpa) rfl rfl
  refine .head hd (step_s0_start hs hi hp) (.head rfl (step_s1_tag rfl rfl rfl) ?_)
  simpa [h0] using payload

end Sys2Proof.Machine

/-! A well-formed reply read back from PBUF. -/

namespace Sys2Proof

theorem packPairs_length (data : List Byte) : (packPairs data).length = 2 * data.length := by
  induction data with
  | nil => rfl
  | cons b rest ih => simp [packPairs, ih]; omega

/-- The low and the high unit of the `k`-th byte stand at `2k` and `2k + 1` (R53). -/
theorem packPairs_getElem? (data : List Byte) {k : Nat} (h : k < data.length) :
    (packPairs data)[2 * k]? = some (packLow data[k]) ∧ (packPairs data)[2 * k + 1]? = some (packHigh data[k]) := by
  induction data generalizing k with
  | nil => simp at h
  | cons b rest ih =>
    cases k with
    | zero => exact ⟨rfl, rfl⟩
    | succ k => simpa [packPairs, Nat.mul_succ] using ih (Nat.lt_of_succ_lt_succ h)

/-- `unpack8` undoes `pack` (R103). -/
theorem unpack8_pack (b : Byte) : unpack8 (packLow b) (packHigh b) = b := by
  revert b; decide

/-- Packed pairs hold no end marker (R104(a)). -/
theorem endMarker_notMem_packPairs (data : List Byte) : endMarker ∉ packPairs data := by
  induction data with
  | nil => simp [packPairs]
  | cons b rest ih =>
    have hlow : endMarker ≠ packLow b := fun h => absurd (packLow_lt b) (by rw [← h]; decide)
    have hhigh : endMarker ≠ packHigh b := fun h => absurd (packHigh_lt b) (by rw [← h]; decide)
    simp [packPairs, hlow, hhigh, ih]

/-- A 7-bit unit is not the end marker (R104(a)). -/
theorem endMarker_ne_unit (v : BitVec 7) : endMarker ≠ v.setWidth 8 := by
  revert v; decide

/-- A field's units are unpacked to the field (R54, R101). -/
theorem unpack_fieldUnits (v : BitVec 14) :
    unpack ((v.extractLsb' 0 7).setWidth 8) ((v.extractLsb' 7 7).setWidth 8) = v.setWidth 15 := by
  refine BitVec.eq_of_getLsbD_eq fun i hi => ?_
  by_cases h7 : i < 7
  · simp [unpack, h7, show i < 14 by omega, hi]
  · by_cases h14 : i < 14
    · simp [unpack, h7, show i - 7 < 7 by omega, show 7 + (i - 7) = i by omega, hi]
    · simp [unpack, h7, hi, show ¬ i - 7 < 7 by omega, BitVec.getLsbD_of_ge v i (by omega)]

theorem replyPayload_length (addr reg : BitVec 14) (data : List Byte) :
    (replyPayload addr reg data).length = 4 + 2 * data.length := by
  simp [replyPayload, fieldUnits, packPairs_length]; omega

theorem endMarker_notMem_replyPayload (addr reg : BitVec 14) (data : List Byte) :
    endMarker ∉ replyPayload addr reg data := by
  simp [replyPayload, fieldUnits, endMarker_ne_unit, endMarker_notMem_packPairs]

end Sys2Proof

namespace Sys2Proof.Machine

/-- PBUF holds the payload of this reply, and PLEN counts it (R79). -/
def HoldsReply (addr reg : BitVec 14) (data : List Byte) (s : State) : Prop := payload s = replyPayload addr reg data

section
variable {addr reg : BitVec 14} {data : List Byte} {s : State}

/-- Byte `k` of the payload is `PBUF[k]` (R51). -/
theorem HoldsReply.read (h : HoldsReply addr reg data s) {k : Nat} {byte : Byte}
    (hk : (replyPayload addr reg data)[k]? = some byte) : s.pbuf.read k = byte := by
  obtain ⟨_, hbyte⟩ := List.getElem?_eq_some_iff.mp (h ▸ hk : (payload s)[k]? = some byte)
  simpa [payload] using hbyte

theorem HoldsReply.dcount (h : HoldsReply addr reg data s) : dcount s = data.length := by
  have hlen : s.plen = 4 + 2 * data.length := by
    simpa [payload, replyPayload_length] using congrArg List.length h
  rw [Machine.dcount, Nat.shiftRight_eq_div_pow]
  omega

theorem HoldsReply.replyAddr (h : HoldsReply addr reg data s) : replyAddr s = addr.setWidth 15 := by
  rw [Machine.replyAddr, h.read (k := 0) rfl, h.read (k := 1) rfl, unpack_fieldUnits]

theorem HoldsReply.replyReg (h : HoldsReply addr reg data s) : replyReg s = reg.setWidth 15 := by
  rw [Machine.replyReg, h.read (k := 2) rfl, h.read (k := 3) rfl, unpack_fieldUnits]

theorem HoldsReply.replyData (h : HoldsReply addr reg data s) {k : Nat} (hk : k < data.length) :
    replyData s k = data[k] := by
  obtain ⟨hlow, hhigh⟩ := packPairs_getElem? data hk
  have hpair : ∀ j, (replyPayload addr reg data)[4 + j]? = (packPairs data)[j]? := fun j => by
    rw [Nat.add_comm]; rfl
  rw [Machine.replyData, h.read ((hpair _).trans hlow),
    h.read (k := 5 + 2 * k) (by rw [← hhigh, ← hpair]; congr 1; omega), unpack8_pack]

theorem HoldsReply.replyBytes (h : HoldsReply addr reg data s) : replyBytes s = data := by
  refine List.ext_getElem (by simp [Machine.replyBytes, h.dcount]) fun k _ hk => ?_
  simpa [Machine.replyBytes] using h.replyData hk

/-- MATCH compares the reply's address with TADDR (R166). -/
theorem HoldsReply.matchFlag (h : HoldsReply addr reg data s) (hd : s.sst = .done) :
    matchFlag s = true ↔ addr.toNat = s.taddr.toNat := by
  simp only [Machine.matchFlag, hd, h.replyAddr, true_and, decide_eq_true_eq]
  rw [← BitVec.toNat_inj, BitVec.toNat_setWidth_of_le (by omega), BitVec.toNat_setWidth_of_le (by omega)]

end

end Sys2Proof.Machine

/-! The commands of a transaction, issued in a block with a framer to a transport that accepts. -/

namespace Sys2Proof.Machine

section
variable {s : State} {out : List Byte} {later : List TxAnswer}

theorem exec_outClear (a b : Byte) (hf : s.params.framer = true) :
    exec (.outClear a b) s = .next { s with olen := 0, cerr := .ok } := withFramer_on hf _

/-- With room in OBUF, OUT_PUSH appends its byte (R122). -/
theorem exec_outPush (a b : Byte) (hf : s.params.framer = true) (h : s.olen < s.params.outMax) :
    exec (.outPush a b) s = .next { s with obuf := s.obuf.write s.olen a, olen := s.olen + 1, cerr := .ok } := by
  simp only [exec, execOutPush, withFramer_on hf, if_pos h, complete]

theorem exec_frameWrite_accept (a b : Byte) (ho : outgoing s = out) (hf : s.params.framer = true)
    (ha : s.txAnswers = .accept :: later) :
    exec (.frameWrite a b) s = .next { s with
      sent := s.sent ++ requestFrame writeMode a out, cerr := .ok, txAnswers := later } := by
  simp only [exec, execFrameWrite, withFramer_on hf, emitFrame_accept ha, ho]

theorem exec_frameRead_accept (a b : Byte) (ho : outgoing s = out) (hf : s.params.framer = true)
    (ha : s.txAnswers = .accept :: later) :
    exec (.frameRead a b) s = .next { s with
      sent := s.sent ++ requestFrame readMode a out, taddr := a, cerr := .ok, txAnswers := later } := by
  simp only [exec, execFrameRead, withFramer_on hf, emitFrame_accept (s := { s with taddr := a }) ha, ho]

/-- The host goes on after a command that did not end with TX_ERR (R213, R214). -/
theorem issue_cons {i : Instr} {rest : List Instr} {t : State} (h : exec i s = .next t) (hc : t.cerr ≠ .txErr) :
    issue (i :: rest) s = issue rest t := by
  simp [issue, h, hc]

/-- Pushing bytes that fit OBUF puts them behind those it holds (R85, R122). -/
theorem issue_pushes (bytes : List Byte) (rest : List Instr) (hf : s.params.framer = true) (hc : s.cerr = .ok)
    (hfit : s.olen + bytes.length ≤ s.params.outMax) :
    issue (bytes.map (fun byte => .outPush byte 0#8) ++ rest) s =
      issue rest { s with obuf := s.obuf.writeFrom s.olen bytes, olen := s.olen + bytes.length } := by
  induction bytes generalizing s with
  | nil => rfl
  | cons byte more ih =>
    rw [List.length_cons] at hfit ⊢
    rw [show s.olen + (more.length + 1) = s.olen + 1 + more.length by omega, hc]
    refine (issue_cons (exec_outPush byte 0#8 hf (by omega)) (by simp)).trans ?_
    exact ih hf rfl (by simp only; omega)

/-- OUT_LOAD leaves exactly its bytes in OBUF (R85). -/
theorem issue_outLoad (bytes : List Byte) (rest : List Instr) (hf : s.params.framer = true)
    (hfit : bytes.length ≤ s.params.outMax) :
    issue (outLoad bytes ++ rest) s =
      issue rest { s with obuf := s.obuf.writeFrom 0 bytes, olen := bytes.length, cerr := .ok } := by
  have pushes := issue_pushes (s := { s with olen := 0, cerr := .ok }) bytes rest hf rfl (by simpa using hfit)
  rw [Nat.zero_add] at pushes
  exact (issue_cons (exec_outClear 0#8 0#8 hf) (by simp)).trans pushes

/-- FRAME_READ and SCAN_START emit the read request, record the address and arm the scanner (R125, R150). -/
theorem issue_read (addr : Byte) (ho : outgoing s = out) (hf : s.params.framer = true)
    (hs : scanning s.sst = false) (ha : s.txAnswers = .accept :: later) :
    issue [.frameRead addr 0#8, .scanStart 0#8 0#8] s = .next { s with
      sent := s.sent ++ requestFrame readMode addr out, taddr := addr, sst := .s0, plen := 0, cerr := .ok,
      txAnswers := later } := by
  exact (issue_cons (exec_frameRead_accept addr 0#8 ho hf ha) (by simp)).trans
    (issue_cons (exec_scanStart 0#8 0#8 hs) (by simp))

/-- A canonical OBUF that was loaded holds the outgoing bytes it was loaded with (R52). -/
theorem outgoing_loaded (hw : s.obuf.wf = true) (bytes : List Byte) :
    outgoing { s with obuf := s.obuf.writeFrom 0 bytes, olen := bytes.length, cerr := .ok } = bytes :=
  Memory.map_read_writeFrom hw bytes

/-- With outgoing bytes the commands of a transaction emit the write request and the read request (R213, R214). -/
theorem issue_transact_some (addr : Byte) (bytes : List Byte) (hf : s.params.framer = true)
    (hs : scanning s.sst = false) (hw : s.obuf.wf = true) (hfit : bytes.length ≤ s.params.outMax)
    (ha : s.txAnswers = .accept :: .accept :: later) :
    issue (transactCommands addr (some bytes) true) s = .next { s with
      obuf := s.obuf.writeFrom 0 bytes, olen := bytes.length,
      sent := s.sent ++ (requestFrame writeMode addr bytes ++ requestFrame readMode addr bytes), taddr := addr,
      sst := .s0, plen := 0, cerr := .ok, txAnswers := later } := by
  have hcommands : transactCommands addr (some bytes) true =
      outLoad bytes ++ .frameWrite addr 0#8 :: [.frameRead addr 0#8, .scanStart 0#8 0#8] := by
    simp [transactCommands, writePhase, readPhase, i2cWrite]
  have hout := outgoing_loaded hw bytes
  rw [hcommands, issue_outLoad bytes _ hf hfit, ← List.append_assoc]
  refine (issue_cons (exec_frameWrite_accept addr 0#8 hout hf ha) (by simp)).trans ?_
  exact issue_read addr hout hf hs rfl

/-- Without outgoing bytes they emit the read request for none (R214). -/
theorem issue_transact_none (addr : Byte) (hf : s.params.framer = true) (hs : scanning s.sst = false)
    (ha : s.txAnswers = .accept :: later) :
    issue (transactCommands addr none true) s = .next { s with
      olen := 0, sent := s.sent ++ requestFrame readMode addr [], taddr := addr, sst := .s0, plen := 0, cerr := .ok,
      txAnswers := later } := by
  rw [show transactCommands addr none true = .outClear 0#8 0#8 :: [.frameRead addr 0#8, .scanStart 0#8 0#8] from rfl,
    issue_cons (exec_outClear 0#8 0#8 hf) (by simp)]
  exact issue_read addr rfl hf hs ha

end

end Sys2Proof.Machine

/-! A read transaction and its reply. -/

namespace Sys2Proof.Machine

/-- A well-formed reply offered byte by byte in S0 ends the scan with the reply's payload in PBUF (R79, R156). -/
theorem scanRun_reply (addr reg : BitVec 14) (data : List Byte) {s : State} {later : List Byte} {rest : List Event}
    (hs : s.sst = .s0) (h0 : s.plen = 0) (hfit : 4 + 2 * data.length ≤ s.params.payloadMax)
    (hp : s.pending = replyFrame addr reg data ++ later)
    (hi : s.inputs = List.replicate (7 + 2 * data.length) Event.offer ++ rest) :
    ScanRun (7 + 2 * data.length) s
      { s with sst := .done, plen := (replyPayload addr reg data).length,
               pbuf := s.pbuf.writeFrom 0 (replyPayload addr reg data), pending := later, inputs := rest } := by
  have hlen := replyPayload_length addr reg data
  rw [show 7 + 2 * data.length = (replyPayload addr reg data).length + 3 by omega] at hi ⊢
  exact scanRun_frame (replyPayload addr reg data) hs h0 (endMarker_notMem_replyPayload addr reg data) (by omega)
    (by omega) (by simpa [replyFrame] using hp) hi

/-- The commands of a read transaction whose writes the transport accepts emit the request frames, record the address
and arm the scanner, and write nothing else but OBUF and OLEN (R213, R214). -/
theorem issue_transact {s : State} {addr : Byte} {out : Option (List Byte)} {frames : List Byte}
    {answers : List TxAnswer} (hf : s.params.framer = true) (hs : scanning s.sst = false)
    (h : (∃ bytes, out = some bytes ∧ s.obuf.wf = true ∧ bytes.length ≤ s.params.outMax ∧
        s.txAnswers = .accept :: .accept :: answers ∧
        frames = requestFrame writeMode addr bytes ++ requestFrame readMode addr bytes) ∨
      (out = none ∧ s.txAnswers = .accept :: answers ∧ frames = requestFrame readMode addr [])) :
    ∃ obuf olen, issue (transactCommands addr out true) s = .next { s with
      obuf := obuf, olen := olen, sent := s.sent ++ frames, taddr := addr, sst := .s0, plen := 0, cerr := .ok,
      txAnswers := answers } := by
  obtain ⟨bytes, rfl, hw, hfit, ha, rfl⟩ | ⟨rfl, ha, rfl⟩ := h
  · exact ⟨_, _, issue_transact_some addr bytes hf hs hw hfit ha⟩
  · exact ⟨_, _, issue_transact_none addr hf hs ha⟩

/-- After commands that completed with OK and a scan that ran on, the host is where its wait has come to (R214). -/
theorem transact_eq_awaitReply {policy : MismatchPolicy} {addr : Byte} {out : Option (List Byte)} {n : Nat}
    {s u t : State} (hissue : issue (transactCommands addr out true) s = .next u) (hc : u.cerr = .ok)
    (hrun : ScanRun n u t) (k : Nat) : transact policy addr out true (n + k) s = awaitReply policy k t := by
  simp [transact, hissue, afterCommands, hc, hrun.awaitReply]

/-- A read transaction whose reply arrives whole comes to a state in DONE that holds the reply, with the frames emitted
and the address recorded (R213, R214). -/
theorem transact_reaches_reply {s : State} {addr : Byte} {sender reg : BitVec 14} {out : Option (List Byte)}
    {frames data later : List Byte} {answers : List TxAnswer} {rest : List Event} (hw : s.pbuf.wf = true)
    (hfit : 4 + 2 * data.length ≤ s.params.payloadMax) (hp : s.pending = replyFrame sender reg data ++ later)
    (hi : s.inputs = List.replicate (7 + 2 * data.length) Event.offer ++ rest)
    (hissue : ∃ obuf olen, issue (transactCommands addr out true) s = .next { s with
      obuf := obuf, olen := olen, sent := s.sent ++ frames, taddr := addr, sst := .s0, plen := 0, cerr := .ok,
      txAnswers := answers }) :
    ∃ t, HoldsReply sender reg data t ∧ t.sst = .done ∧ t.taddr = addr ∧ t.sent = s.sent ++ frames ∧
      t.pending = later ∧
      ∀ policy k, transact policy addr out true (7 + 2 * data.length + k) s = awaitReply policy k t := by
  obtain ⟨obuf, olen, hissue⟩ := hissue
  refine ⟨_, ?_, ?_, ?_, ?_, ?_, fun policy =>
    transact_eq_awaitReply hissue rfl (scanRun_reply sender reg data rfl rfl hfit hp hi)⟩
  · exact Memory.map_read_writeFrom hw (replyPayload sender reg data)
  all_goals rfl

section
variable {addr reg : BitVec 14} {data : List Byte} {t : State} (h : HoldsReply addr reg data t) (hd : t.sst = .done)
include h hd

/-- A reply of the address asked for is copied (R215). -/
theorem awaitReply_match (policy : MismatchPolicy) (ha : addr.toNat = t.taddr.toNat) :
    awaitReply policy 1 t = .ended (.copy data) t := by
  have hv : verdict policy t = .copy data := by rw [verdict_match ((h.matchFlag hd).mpr ha), h.replyBytes]
  rw [awaitReply_ended (by rw [doneLvl, hd]; rfl) (by simp [hv]), hv]

/-- A reply of another address has MATCH 0 (R166). -/
theorem matchFlag_of_ne (ha : addr.toNat ≠ t.taddr.toNat) : matchFlag t = false := by
  rw [← Bool.not_eq_true, h.matchFlag hd]
  exact ha

/-- A reply of another address ends the wait as the policy says, where the policy ends it (R8, R215). -/
theorem awaitReply_mismatch {policy : MismatchPolicy} (ha : addr.toNat ≠ t.taddr.toNat)
    (hr : mismatchVerdict policy ≠ .rescan) : awaitReply policy 1 t = .ended (mismatchVerdict policy) t := by
  have hv : verdict policy t = mismatchVerdict policy := verdict_mismatch hd (matchFlag_of_ne h hd ha)
  rw [awaitReply_ended (by rw [doneLvl, hd]; rfl) (by rwa [hv]), hv]

end

/-- Settles O54: the commands emit the frames, the scan stores the reply, and the host's last look at MATCH decides. -/
theorem transactDeliversTheReply : Obligations.TransactDeliversTheReply := by
  unfold Obligations.TransactDeliversTheReply
  intro policy s addr sender reg out frames data later answers rest hf hw hfit hs hcase hp hi
  obtain ⟨t, hreply, hdone, htaddr, hsent, hpending, hend⟩ :=
    transact_reaches_reply hw hfit hp hi (issue_transact hf hs hcase)
  have hlast : ∀ policy, transact policy addr out true (8 + 2 * data.length) s = awaitReply policy 1 t := fun policy => by
    rw [← hend policy 1, show 7 + 2 * data.length + 1 = 8 + 2 * data.length by omega]
  refine ⟨t, hsent, hpending, fun ha => ?_, fun ha => ⟨?_, ?_, ?_⟩⟩ <;> rw [← htaddr] at ha
  · rw [hlast, awaitReply_match hreply hdone policy ha]
  · rintro rfl
    rw [hlast, awaitReply_mismatch hreply hdone ha (by decide), mismatchVerdict]
  · rintro rfl
    rw [hlast, awaitReply_mismatch hreply hdone ha (by decide), mismatchVerdict]
  · rintro rfl
    refine ⟨{ t with sst := .s0, plen := 0, cerr := .ok }, ?_, hsent, rfl, rfl, hpending⟩
    rw [hlast, awaitReply_rescan hdone (matchFlag_of_ne hreply hdone ha), awaitReply]

end Sys2Proof.Machine

/-! Every step keeps the machine's invariant. -/

namespace Sys2Proof.Machine

/-- The invariant does not look at the transport. -/
theorem State.Inv.arrive {s : State} (hi : s.Inv) (bytes : List Byte) : (arrive bytes s).Inv := { hi with }

/-- The invariant does not look at the events to come. -/
theorem State.Inv.dropInput {s : State} (hi : s.Inv) : (dropInput s).Inv := { hi with }

/-- Only a scan that is at most in S1 moves to S0 or S1, and none moves to IDLE (R152 to R155). -/
theorem ByteMove.before_s2 {s : State} {dst : Sst} (h : ByteMove s dst) (hd : dst = .idle ∨ dst = .s0 ∨ dst = .s1) :
    s.sst = .s0 ∨ s.sst = .s1 := by
  obtain ⟨hs, -⟩ | ⟨hs, -⟩ | ⟨-, ⟨rfl, -⟩ | ⟨rfl, -⟩ | ⟨rfl, -⟩⟩ := h
  · exact .inl hs
  · exact .inr hs
  all_goals simp at hd

/-- A move to DONE, SHORT or OVF comes with the count that the state requires (R156, R157, R159). -/
theorem ByteMove.terminal {s : State} {dst : Sst} (h : ByteMove s dst) :
    (dst = .done → 4 ≤ s.plen) ∧ (dst = .short → s.plen < 4) ∧ (dst = .ovf → s.params.payloadMax ≤ s.plen) := by
  obtain ⟨-, rfl | rfl⟩ | ⟨-, rfl | rfl⟩ | ⟨-, ⟨rfl, hl⟩ | ⟨rfl, hl⟩ | ⟨rfl, hl⟩⟩ := h
  case inr.inr.inl => exact ⟨fun _ => hl, nofun, nofun⟩
  case inr.inr.inr.inl => exact ⟨nofun, fun _ => hl, nofun⟩
  case inr.inr.inr.inr => exact ⟨nofun, nofun, fun _ => hl⟩
  all_goals exact ⟨nofun, nofun, nofun⟩

/-- The offer of a byte keeps the invariant: a byte is stored only below the capacity, and a move comes with the count
its scanner state requires. -/
theorem ByteShape.keeps_inv {s t : State} (h : ByteShape s t) (hi : s.Inv) : t.Inv := by
  cases h with
  | kept => exact hi
  | accept byte dst hp hm =>
    obtain ⟨hdone, hshort, hovf⟩ := hm.terminal
    exact { hi with
      no_payload := fun hd => hi.no_payload (.inr (hm.before_s2 hd))
      done_long := hdone
      short_few := hshort
      ovf_full := fun hd => le_antisymm hi.plen_le (hovf hd) }
  | append byte hp h2 hl =>
    exact { hi with
      plen_le := hl
      pbuf_wf := Memory.wf_write hi.pbuf_wf s.plen byte
      pbuf_below := Memory.below_write hi.pbuf_below hl byte
      no_payload := by simp [h2]
      done_long := by simp [h2]
      short_few := by simp [h2]
      ovf_full := by simp [h2] }

/-- A reset gives a state that meets the invariant wherever the parameters are legal (R33, R240). -/
theorem resetBlock_inv {s : State} (hl : s.params.Legal) : (resetBlock s).Inv where
  legal := hl
  plen_le := Nat.zero_le _
  olen_le := Nat.zero_le _
  pbuf_wf := Memory.wf_fill _ _
  obuf_wf := Memory.wf_fill _ _
  pbuf_below := Memory.below_fill _ le_rfl
  obuf_below := Memory.below_fill _ le_rfl
  no_payload _ := rfl
  done_long := nofun
  short_few := nofun
  ovf_full := nofun
  no_framer _ := ⟨rfl, rfl⟩

/-- Every shape of a completing row keeps the invariant. -/
theorem Shape.keeps_inv {i : Instr} {s t : State} (h : Shape i s t) (hi : s.Inv) : t.Inv := by
  cases h with
  | same => exact hi
  | code c => exact { hi with }
  | clear hf => exact { hi with olen_le := Nat.zero_le _, no_framer := by simp [hf] }
  | push byte hf h =>
    exact { hi with
      olen_le := h
      obuf_wf := Memory.wf_write hi.obuf_wf s.olen byte
      obuf_below := Memory.below_write hi.obuf_below h byte
      no_framer := by simp [hf] }
  | emit frame bytes a c later hf => exact { hi with no_framer := by simp [hf] }
  | codec v => exact { hi with }
  | arm a b hi' h =>
    exact { hi with
      plen_le := Nat.zero_le _
      no_payload := fun _ => rfl
      done_long := nofun
      short_few := nofun
      ovf_full := nofun }
  | offer h => exact h.keeps_inv hi
  | abort h => exact { hi with no_payload := nofun, done_long := nofun, short_few := nofun, ovf_full := nofun }
  | deliver bytes h => exact h.keeps_inv (hi.arrive bytes)
  | reset waiting => exact { resetBlock_inv hi.legal with }

/-- Settles O44: a step has one of the shapes, and each shape keeps the invariant. -/
theorem stepKeepsTheInvariant : Obligations.StepKeepsTheInvariant := by
  unfold Obligations.StepKeepsTheInvariant
  intro s t hi h
  obtain ⟨i, hshape⟩ := step_shape h
  exact hshape.keeps_inv hi.dropInput

end Sys2Proof.Machine

/-! States that differ in unspecified buffer bytes step alike and show the same at every port. -/

namespace Sys2Proof.Machine

/-- Two buffers that agree below `n` agree below `n + 1` once the same byte is written at `n`. -/
theorem Memory.read_write_agree {m m' : Memory} (hm : m.wf = true) (hm' : m'.wf = true) {n : Nat}
    (h : ∀ k, k < n → m'.read k = m.read k) (v : Byte) :
    ∀ k, k < n + 1 → (m'.write n v).read k = (m.write n v).read k := by
  intro k hk
  rcases Nat.lt_or_eq_of_le (Nat.le_of_lt_succ hk) with hlt | rfl
  · rw [Memory.read_write_other hlt.ne', Memory.read_write_other hlt.ne', h k hlt]
  · rw [Memory.read_write_same hm', Memory.read_write_same hm]

section
variable {s u : State} (h : s.Alike u)
include h

/-- Alike states differ in the buffers and the count of draws only. -/
theorem State.Alike.exists_eq : ∃ p o d, u = { s with pbuf := p, obuf := o, draws := d } := ⟨_, _, _, h.rest⟩

theorem State.Alike.sst_same : u.sst = s.sst := by rw [h.rest]

/-- Alike states send the same outgoing bytes (R52). -/
theorem State.Alike.outgoing_same : outgoing u = outgoing s := by
  have holen : u.olen = s.olen := by rw [h.rest]
  unfold outgoing
  rw [holen]
  exact List.map_congr_left fun k hk => h.outgoing_eq k (List.mem_range.mp hk)

/-- What reset finds emitted of a waiting frame does not depend on unspecified bytes. -/
theorem State.Alike.abandonedPrefix_same (waiting : Option (CmdWord × Nat)) :
    abandonedPrefix waiting u = abandonedPrefix waiting s := by
  have hparams : u.params = s.params := by rw [h.rest]
  simp only [abandonedPrefix, commandFrame, h.outgoing_same, hparams]

theorem State.Alike.setInputs (events : List Event) :
    State.Alike { s with inputs := events } { u with inputs := events } := by
  obtain ⟨p, o, d, rfl⟩ := h.exists_eq
  exact { h with rest := rfl }

theorem State.Alike.setTaddr (a : Byte) : State.Alike { s with taddr := a } { u with taddr := a } := by
  obtain ⟨p, o, d, rfl⟩ := h.exists_eq
  exact { h with rest := rfl }

theorem State.Alike.arrive (bytes : List Byte) : (arrive bytes s).Alike (arrive bytes u) := by
  obtain ⟨p, o, d, rfl⟩ := h.exists_eq
  exact { h with rest := rfl }

end

/-- Where the first outcome is a next state, so is the second, and the two states are alike. -/
def FollowedBy (x y : Host.Outcome State Fault Refusal) : Prop := ∀ t, x = .next t → ∃ v, y = .next v ∧ t.Alike v

theorem followedBy_next {t v : State} (h : t.Alike v) : FollowedBy (.next t) (.next v) := by
  rintro _ ⟨⟩
  exact ⟨v, rfl, h⟩

theorem followedBy_fault (f : Fault) (y : Host.Outcome State Fault Refusal) : FollowedBy (.fault f) y := nofun

theorem followedBy_refused (r : Refusal) (y : Host.Outcome State Fault Refusal) : FollowedBy (.refused r) y := nofun

theorem followedBy_ite {c : Prop} [Decidable c] {x x' y y' : Host.Outcome State Fault Refusal} (h : FollowedBy x y)
    (h' : FollowedBy x' y') : FollowedBy (if c then x else x') (if c then y else y') := by
  split
  · exact h
  · exact h'

section
variable {s u : State} (h : s.Alike u)
include h

theorem followedBy_withFramer {x y : Host.Outcome State Fault Refusal} (hxy : FollowedBy x y) :
    FollowedBy (withFramer s x) (withFramer u y) := by
  obtain ⟨p, o, d, rfl⟩ := h.exists_eq
  exact followedBy_ite hxy (followedBy_next { h with rest := rfl })

theorem followedBy_emitFrame (bytes : List Byte) : FollowedBy (emitFrame bytes s) (emitFrame bytes u) := by
  obtain ⟨p, o, d, rfl⟩ := h.exists_eq
  unfold emitFrame
  match s.txAnswers with
  | [] => exact followedBy_fault _ _
  | .accept :: later => exact followedBy_next { h with rest := rfl }
  | .error taken :: later => exact followedBy_next { h with rest := rfl }

/-- A request frame that sends the outgoing bytes is the same from alike states. -/
theorem followedBy_request (mode addr a : Byte) :
    FollowedBy (withFramer s (emitFrame (requestFrame mode addr (outgoing s)) { s with taddr := a }))
      (withFramer u (emitFrame (requestFrame mode addr (outgoing u)) { u with taddr := a })) := by
  rw [h.outgoing_same]
  exact followedBy_withFramer h (followedBy_emitFrame (h.setTaddr a) _)

theorem followedBy_rxRow (byte : Byte) (cond : Bool) {t v : State} (ht : t.Alike v) :
    FollowedBy (rxRow byte cond s t) (rxRow byte cond u v) := by
  obtain ⟨p, o, d, rfl⟩ := h.exists_eq
  exact followedBy_ite (followedBy_next ht) (followedBy_refused _ _)

/-- The rows of inbound bytes keep states alike. -/
theorem followedBy_execInbound (i : Instr) : FollowedBy (execInbound i s) (execInbound i u) := by
  obtain ⟨p, o, d, rfl⟩ := h.exists_eq
  cases i with
  | rxS2Append byte =>
    obtain ⟨hp, ho, hp', ho'⟩ := h.canonical
    exact followedBy_rxRow h _ _
      { h with
        rest := rfl
        payload_eq := Memory.read_write_agree hp hp' h.payload_eq byte
        canonical := ⟨Memory.wf_write hp _ _, ho, Memory.wf_write hp' _ _, ho'⟩ }
  | rxS0Start | rxS0Discard | rxS1Tag | rxS1Discard | rxS2End | rxS2EndShort | rxS2Overflow | rxNotAccepted =>
    exact followedBy_rxRow h _ _ { h with rest := rfl }
  | _ => exact followedBy_refused _ _

theorem followedBy_offerOldest : FollowedBy (offerOldest s) (offerOldest u) := by
  have hpending : u.pending = s.pending := by rw [h.rest]
  have hview : u.scanView = s.scanView := by rw [h.rest]; rfl
  unfold offerOldest
  rw [hpending, hview]
  cases s.pending with
  | nil => exact followedBy_fault _ _
  | cons byte later => exact followedBy_execInbound h _

/-- Every row keeps alike states alike. -/
theorem followedBy_exec (i : Instr) : FollowedBy (exec i s) (exec i u) := by
  have inbound := followedBy_execInbound h
  have request := followedBy_request h
  have hprefix := h.abandonedPrefix_same
  obtain ⟨p, o, d, rfl⟩ := h.exists_eq
  cases i with
  | nop a b | pack a b | unpack a b | reservedOp9 a b | reservedOpA a b | reservedOpB a b | reservedOpC a b
  | reservedOpD a b | reservedOpE a b | reservedOpF a b | reservedRsv rsv op a b =>
    exact followedBy_next { h with rest := rfl }
  | outClear a b =>
    exact followedBy_withFramer h (followedBy_next { h with rest := rfl, outgoing_eq := nofun })
  | outPush a b =>
    obtain ⟨hp, ho, hp', ho'⟩ := h.canonical
    exact followedBy_withFramer h (followedBy_ite
      (followedBy_next
        { h with
          rest := rfl
          outgoing_eq := Memory.read_write_agree ho ho' h.outgoing_eq a
          canonical := ⟨hp, Memory.wf_write ho _ _, hp', Memory.wf_write ho' _ _⟩ })
      (followedBy_next { h with rest := rfl }))
  | frameConfig a b | frameI2cConfig | frameReqWrite addr out =>
    exact followedBy_withFramer h (followedBy_emitFrame h _)
  | frameReqRead addr out => exact followedBy_withFramer h (followedBy_emitFrame (h.setTaddr addr) _)
  | frameWrite a b => exact request writeMode a s.taddr
  | frameRead a b => exact request readMode a a
  | scanStart a b =>
    exact followedBy_ite (followedBy_next { h with rest := rfl })
      (followedBy_next { h with rest := rfl, payload_eq := nofun })
  | frameReply addr reg data => exact followedBy_offerOldest (h.arrive _)
  | frameReportFirmware rest => exact followedBy_offerOldest (h.arrive _)
  | rxS0Start => exact inbound .rxS0Start
  | rxS0Discard byte => exact inbound (.rxS0Discard byte)
  | rxS1Tag => exact inbound .rxS1Tag
  | rxS1Discard byte => exact inbound (.rxS1Discard byte)
  | rxS2End => exact inbound .rxS2End
  | rxS2EndShort => exact inbound .rxS2EndShort
  | rxS2Append byte => exact inbound (.rxS2Append byte)
  | rxS2Overflow byte => exact inbound (.rxS2Overflow byte)
  | rxNotAccepted byte => exact inbound (.rxNotAccepted byte)
  | rxErr =>
    simp only [exec, execRxErr]
    split
    · exact followedBy_next { h with rest := rfl }
    · exact followedBy_next h
  | reset waiting =>
    simp only [exec, execReset, hprefix]
    exact followedBy_next
      { rest := rfl
        payload_eq := nofun
        outgoing_eq := nofun
        canonical := ⟨Memory.wf_fill _ _, Memory.wf_fill _ _, Memory.wf_fill _ _, Memory.wf_fill _ _⟩ }

/-- Every step keeps alike states alike. -/
theorem followedBy_step : FollowedBy (step s) (step u) := by
  have inputs_same : u.inputs = s.inputs := by rw [h.rest]
  match hi : s.inputs with
  | [] =>
    rw [step_none hi]
    exact followedBy_fault _ _
  | .cmd w :: rest =>
    rw [step_cmd hi, step_cmd (inputs_same.trans hi)]
    exact followedBy_exec (h.setInputs rest) _
  | .frame w :: rest =>
    rw [step_frame hi, step_frame (inputs_same.trans hi)]
    exact followedBy_exec (h.setInputs rest) _
  | .offer :: rest =>
    rw [step_offer hi, step_offer (inputs_same.trans hi)]
    exact followedBy_offerOldest (h.setInputs rest)
  | .deliver bytes :: rest =>
    rw [step_deliver hi, step_deliver (inputs_same.trans hi)]
    exact followedBy_offerOldest ((h.setInputs rest).arrive bytes)
  | .rxErr :: rest =>
    rw [step_rxErr hi, step_rxErr (inputs_same.trans hi)]
    exact followedBy_exec (h.setInputs rest) _
  | .reset waiting :: rest =>
    rw [step_reset hi, step_reset (inputs_same.trans hi)]
    exact followedBy_exec (h.setInputs rest) _

/-- REPLY_ADDR reads the first two payload bytes (R162). -/
theorem State.Alike.replyAddr_same (hl : 4 ≤ s.plen) : replyAddr u = replyAddr s := by
  rw [replyAddr, replyAddr, h.payload_eq 0 (by omega), h.payload_eq 1 (by omega)]

/-- REPLY_REG reads the next two payload bytes (R163). -/
theorem State.Alike.replyReg_same (hl : 4 ≤ s.plen) : replyReg u = replyReg s := by
  rw [replyReg, replyReg, h.payload_eq 2 (by omega), h.payload_eq 3 (by omega)]

theorem State.Alike.dcount_same : dcount u = dcount s := by
  obtain ⟨p, o, d, rfl⟩ := h.exists_eq
  rfl

/-- A data byte below DCOUNT lies in the payload (R164, R165). -/
theorem State.Alike.replyData_same {k : Nat} (hk : k < dcount s) : replyData u k = replyData s k := by
  simp only [dcount, Nat.shiftRight_eq_div_pow, Nat.pow_one] at hk
  rw [replyData, replyData, h.payload_eq (4 + 2 * k) (by omega), h.payload_eq (5 + 2 * k) (by omega)]

/-- A read of the result port is the same where the value is the same in DONE. -/
theorem State.Alike.onDone_same {α : Type} {v w : α} (hv : s.sst = .done → w = v) : onDone u w = onDone s v := by
  unfold onDone
  rw [h.sst_same]
  split
  · rw [hv ‹_›]
  · rfl

theorem State.Alike.readReplyData_same (k : Nat) : readReplyData u k = readReplyData s k := by
  unfold readReplyData
  rw [h.sst_same, h.dcount_same]
  split
  · rfl
  · rename_i hc
    exact h.onDone_same fun hd => h.replyData_same (by simpa [hd] using hc)

theorem State.Alike.matchFlag_same (hl : s.sst = .done → 4 ≤ s.plen) : matchFlag u = matchFlag s := by
  have htaddr : u.taddr = s.taddr := by rw [h.rest]
  unfold matchFlag
  rw [h.sst_same, htaddr]
  by_cases hd : s.sst = .done
  · rw [h.replyAddr_same (hl hd)]
  · simp [hd]

theorem State.Alike.status_same (hl : s.sst = .done → 4 ≤ s.plen) : status u = status s := by
  have hcerr : u.cerr = s.cerr := by rw [h.rest]
  unfold status doneLvl
  rw [h.matchFlag_same hl, h.sst_same, hcerr]

end

/-- Settles O45: alike states take the same rows to alike states, and the ports read the payload only. -/
theorem unspecifiedBufferBytesAreNeverObserved : Obligations.UnspecifiedBufferBytesAreNeverObserved := by
  unfold Obligations.UnspecifiedBufferBytesAreNeverObserved
  intro s u h
  have hcodec : u.codecOut = s.codecOut := by rw [h.rest]
  refine ⟨followedBy_step h, hcodec, fun hl => ⟨h.status_same hl, ?_, ?_, ?_, h.readReplyData_same⟩⟩
  · exact h.onDone_same fun hd => h.replyAddr_same (hl hd)
  · exact h.onDone_same fun hd => h.replyReg_same (hl hd)
  · exact h.onDone_same fun _ => h.dcount_same

end Sys2Proof.Machine

/-! The reset state, the layout of STATUS, and the frames of the far end. -/

namespace Sys2Proof.Machine

/-- Settles O1: State.reset is written out with R33's values. -/
theorem resetStateHoldsTheResetValues : Obligations.ResetStateHoldsTheResetValues := by
  unfold Obligations.ResetStateHoldsTheResetValues
  decide

/-- Bit `i` of STATUS, by the field it lies in (R29). -/
theorem getLsbD_status (s : State) (i : Nat) :
    (status s).getLsbD i =
      if i < 3 then (sstCode s.sst).getLsbD i else if i < 4 then doneLvl s
      else if i < 8 then (cerrCode s.cerr).getLsbD (i - 4) else if i < 9 then matchFlag s else false := by
  simp only [status, BitVec.getLsbD_append, BitVec.getLsbD_ofBool]
  by_cases h3 : i < 3
  · simp [h3]
  · by_cases h4 : i < 4
    · obtain rfl : i = 3 := by omega
      simp
    · by_cases h8 : i < 8
      · simp [h3, h4, h8, show ¬ i - 3 < 1 by omega, show i - 3 - 1 = i - 4 by omega, show i - 4 < 4 by omega]
      · by_cases h9 : i < 9
        · obtain rfl : i = 8 := by omega
          simp
        · simp [h3, h4, h8, h9, show ¬ i - 3 < 1 by omega, show ¬ i - 3 - 1 < 4 by omega,
            show ¬ i - 3 - 1 - 4 < 1 by omega]

/-- DONE_LVL is 1 exactly where a scan has ended (R30). -/
theorem doneLvl_iff (s : State) :
    doneLvl s = true ↔ s.sst = .done ∨ s.sst = .abort ∨ s.sst = .short ∨ s.sst = .ovf := by
  unfold doneLvl
  cases s.sst <;> simp [sstCode]

theorem doneLvl_eq (s : State) : doneLvl s = decide (4 ≤ (sstCode s.sst).toNat) := by
  simp [doneLvl, BitVec.le_def]

/-- Settles O30: each field by its bits. -/
theorem statusLayout : Obligations.StatusLayout := by
  unfold Obligations.StatusLayout
  intro s
  have hdone : (readStatus s).getLsbD 3 = doneLvl s := getLsbD_status s 3
  refine ⟨?_, hdone.trans (doneLvl_eq s), by rw [hdone]; exact doneLvl_iff s, ?_, getLsbD_status s 8, ?_, ?_⟩
  · refine BitVec.eq_of_getLsbD_eq fun i hi => ?_
    simp [readStatus, getLsbD_status, hi]
  · refine BitVec.eq_of_getLsbD_eq fun i hi => ?_
    simp [readStatus, getLsbD_status, hi, show ¬ 4 + i < 3 by omega, show 4 + i < 8 by omega]
  · refine BitVec.eq_of_getLsbD_eq fun i hi => ?_
    simp [readStatus, getLsbD_status, hi, show ¬ 9 + i < 3 by omega, show ¬ 9 + i < 4 by omega, show ¬ 9 + i < 8 by omega]
  · decide

/-- Settles O25: the bytes arrive behind those pending, and the offer of the oldest completes in every state. -/
theorem arrivingFramesWaitAtTheTransport : Obligations.ArrivingFramesWaitAtTheTransport := by
  unfold Obligations.ArrivingFramesWaitAtTheTransport
  intro i bytes s hi
  obtain ⟨hexec, hne⟩ : exec i s = offerOldest (arrive bytes s) ∧ s.pending ++ bytes ≠ [] := by
    obtain ⟨addr, reg, data, rfl, rfl⟩ | ⟨rest, rfl, rfl⟩ := hi
    · exact ⟨rfl, List.append_ne_nil_of_right_ne_nil _ (List.cons_ne_nil _ _)⟩
    · exact ⟨rfl, List.append_ne_nil_of_right_ne_nil _ (List.cons_ne_nil _ _)⟩
  obtain ⟨byte, later, hp⟩ := List.exists_cons_of_ne_nil hne
  have hoffer : exec i s = exec (decodeRx (arrive bytes s).scanView byte) (arrive bytes s) :=
    hexec.trans (offerOldest_cons hp)
  refine ⟨?_, fun hs => ?_, fun byte later hp => hexec.trans (offerOldest_arrive hp)⟩
  · rw [hoffer]
    exact exec_decodeRx_completes hp
  · rw [hoffer, decodeRx_not_scanning (s := arrive bytes s) hs]
    exact exec_rxNotAccepted hp hs

end Sys2Proof.Machine

/-! What each row leaves unchanged. -/

namespace Sys2Proof.Machine

section
variable {e : Element} {s : State}

theorem Element.same_refl (e : Element) (s : State) : e.Same s s := by cases e <;> rfl

/-- A recorded code changes CERR only (R203). -/
theorem Element.same_code (he : e ∉ [Element.cerr]) (c : CErr) : e.Same s { s with cerr := c } := by
  cases e with
  | cerr => simp at he
  | _ => rfl

theorem Element.same_clear (he : e ∉ [Element.olen, Element.cerr]) : e.Same s { s with olen := 0, cerr := .ok } := by
  cases e with
  | olen | cerr => simp at he
  | _ => rfl

theorem Element.same_push (he : e ∉ [Element.obuf s.olen, Element.olen, Element.cerr]) (byte : Byte) :
    e.Same s { s with obuf := s.obuf.write s.olen byte, olen := s.olen + 1, cerr := .ok } := by
  cases e with
  | obuf k => exact Memory.read_write_other (by simpa [eq_comm] using he) s.obuf byte
  | olen | cerr => simp at he
  | _ => rfl

theorem Element.same_emit (he : e ∉ [Element.sent, Element.txAnswers, Element.cerr]) (bytes : List Byte) (c : CErr)
    (later : List TxAnswer) : e.Same s { s with sent := bytes, cerr := c, txAnswers := later } := by
  cases e with
  | sent | txAnswers | cerr => simp at he
  | _ => rfl

/-- A read request also sets TADDR (R125). -/
theorem Element.same_taddr (he : e ≠ .taddr) {t : State} {a : Byte} (h : e.Same { s with taddr := a } t) : e.Same s t := by
  cases e with
  | taddr => exact absurd rfl he
  | _ => exact h

/-- A frame write changes the outbound history, the transport's answers and CERR only (R120). -/
theorem Element.same_emitFrame (he : e ∉ [Element.sent, Element.txAnswers, Element.cerr]) {bytes : List Byte} {t : State}
    (h : emitFrame bytes s = .next t) : e.Same s t := by
  obtain ⟨later, -, rfl⟩ | ⟨taken, later, -, rfl⟩ := emitFrame_next h
  · exact same_emit he _ .ok later
  · exact same_emit he _ .txErr later

theorem Element.same_emitFrame_taddr (he : e ∉ [Element.sent, Element.txAnswers, Element.taddr, Element.cerr])
    {bytes : List Byte} {a : Byte} {t : State} (h : emitFrame bytes { s with taddr := a } = .next t) : e.Same s t := by
  simp only [List.mem_cons, not_or] at he
  obtain ⟨hs, hx, ha, hc⟩ := he
  exact same_taddr ha (same_emitFrame (by simp [*]) h)

theorem Element.same_codec (he : e ∉ [Element.codecOut, Element.cerr]) (v : BitVec 16) :
    e.Same s { s with codecOut := v, cerr := .ok } := by
  cases e with
  | codecOut | cerr => simp at he
  | _ => rfl

theorem Element.same_arm (he : e ∉ [Element.sst, Element.plen, Element.cerr]) :
    e.Same s { s with sst := .s0, plen := 0, cerr := .ok } := by
  cases e with
  | sst | plen | cerr => simp at he
  | _ => rfl

theorem Element.same_sst (he : e ∉ [Element.sst]) (dst : Sst) : e.Same s { s with sst := dst } := by
  cases e with
  | sst => simp at he
  | _ => rfl

theorem Element.same_pending (he : e ∉ [Element.pending]) (bytes : List Byte) : e.Same s { s with pending := bytes } := by
  cases e with
  | pending => simp at he
  | _ => rfl

/-- A byte that is taken and not stored changes the pending bytes and SST only (R152 to R157, R159). -/
theorem Element.same_move (he : e ∉ [Element.sst, Element.pending]) (dst : Sst) (bytes : List Byte) :
    e.Same s { s with sst := dst, pending := bytes } := by
  cases e with
  | sst | pending => simp at he
  | _ => rfl

/-- A byte that is stored changes the payload and the pending bytes only (R158). -/
theorem Element.same_append (he : e ∉ [Element.pbuf s.plen, Element.plen, Element.pending]) (byte : Byte)
    (bytes : List Byte) :
    e.Same s { s with pbuf := s.pbuf.write s.plen byte, plen := s.plen + 1, pending := bytes } := by
  cases e with
  | pbuf k => exact Memory.read_write_other (by simpa [eq_comm] using he) s.pbuf byte
  | plen | pending => simp at he
  | _ => rfl

theorem Element.same_reset {waiting : Option (CmdWord × Nat)} (he : mayWrite s e (.reset waiting) = false) :
    e.Same s { resetBlock s with sent := s.sent ++ abandonedPrefix waiting s } := by
  cases e with
  | sent =>
    obtain rfl : waiting = none := by simpa [mayWrite] using he
    exact List.append_nil _
  | pending | params | txAnswers | inputs => rfl
  | _ => simp [mayWrite] at he

/-- Without a framer a framer step changes CERR only (R72). -/
theorem Element.same_withFramer {run : Host.Outcome State Fault Refusal} {t : State} {w : Bool}
    (he : (if s.params.framer then w else decide (e ∈ [Element.cerr])) = false) (h : withFramer s run = .next t)
    (hrun : w = false → run = .next t → e.Same s t) : e.Same s t := by
  cases hf : s.params.framer with
  | true =>
    rw [withFramer_on hf] at h
    exact hrun (by simpa [hf] using he) h
  | false =>
    rw [withFramer_off hf] at h
    cases h
    exact same_code (by simpa [hf] using he) .illegal

/-- An offer may write the pending bytes, while scanning SST, and in S2 the payload (R32). -/
theorem offerMayWrite_eq_false : offerMayWrite s e = false ↔
    e ≠ .pending ∧ (scanning s.sst = true → e ≠ .sst) ∧ (s.sst = .s2 → e ≠ .pbuf s.plen ∧ e ≠ .plen) := by
  cases hs : s.sst <;> simp [offerMayWrite, scanning, hs] <;> tauto

/-- Bytes that arrive, and the offer of the oldest, write what an offer may write. -/
theorem Element.same_offer (he : offerMayWrite s e = false) {bytes : List Byte} {t : State}
    (h : ByteShape (arrive bytes s) t) : e.Same s t := by
  obtain ⟨hp, hsst, hbuf⟩ := offerMayWrite_eq_false.mp he
  cases h with
  | kept => exact same_pending (by simpa using hp) _
  | accept byte dst _ hm => exact same_move (by simpa using ⟨hsst hm.scanning, hp⟩) dst _
  | append byte _ h2 => exact same_append (by simpa [hp] using hbuf h2) byte _

end

/-- Settles O36: each row is one of the updates above, and its row of R32 names what the update changes. -/
theorem stepsWriteOnlyTheirElements : Obligations.StepsWriteOnlyTheirElements := by
  unfold Obligations.StepsWriteOnlyTheirElements
  intro i s t e h he
  cases i with
  | nop a b | reservedOp9 a b | reservedOpA a b | reservedOpB a b | reservedOpC a b | reservedOpD a b
  | reservedOpE a b | reservedOpF a b | reservedRsv rsv op a b =>
    cases h
    exact Element.same_code (of_decide_eq_false he) _
  | outClear a b =>
    exact Element.same_withFramer he h fun he h => by cases h; exact Element.same_clear (of_decide_eq_false he)
  | outPush a b =>
    simp only [mayWrite, ite_and] at he
    refine Element.same_withFramer he h fun he h => ?_
    split at h
    · rw [if_pos ‹_›] at he
      cases h
      exact Element.same_push (of_decide_eq_false he) a
    · rw [if_neg ‹_›] at he
      cases h
      exact Element.same_code (of_decide_eq_false he) .outOvf
  | frameConfig a b | frameWrite a b | frameI2cConfig | frameReqWrite addr out =>
    exact Element.same_withFramer he h fun he h => Element.same_emitFrame (of_decide_eq_false he) h
  | frameRead a b | frameReqRead addr out =>
    exact Element.same_withFramer he h fun he h => Element.same_emitFrame_taddr (of_decide_eq_false he) h
  | scanStart a b =>
    simp only [exec, execScanStart] at h
    simp only [mayWrite] at he
    split at h
    · rw [if_pos ‹_›] at he
      cases h
      exact Element.same_code (of_decide_eq_false he) .busy
    · rw [if_neg ‹_›] at he
      cases h
      exact Element.same_arm (of_decide_eq_false he)
  | pack a b | unpack a b =>
    cases h
    exact Element.same_codec (of_decide_eq_false he) _
  | frameReply addr reg data => exact Element.same_offer he (offerOldest_shape h)
  | frameReportFirmware rest => exact Element.same_offer he (offerOldest_shape h)
  | rxS0Start | rxS1Tag | rxS2End | rxS2EndShort | rxS2Overflow byte =>
    obtain ⟨-, rfl⟩ := rxRow_next.mp h
    exact Element.same_move (of_decide_eq_false he) _ _
  | rxS0Discard byte | rxS1Discard byte =>
    obtain ⟨-, rfl⟩ := rxRow_next.mp h
    exact Element.same_pending (of_decide_eq_false he) _
  | rxS2Append byte =>
    obtain ⟨-, rfl⟩ := rxRow_next.mp h
    exact Element.same_append (of_decide_eq_false he) byte _
  | rxNotAccepted byte =>
    obtain ⟨-, rfl⟩ := rxRow_next.mp h
    exact e.same_refl s
  | rxErr =>
    simp only [exec, execRxErr] at h
    simp only [mayWrite] at he
    cases h
    split
    · rw [if_pos ‹_›] at he
      exact Element.same_sst (of_decide_eq_false he) .abort
    · exact e.same_refl s
  | reset waiting =>
    cases h
    exact Element.same_reset he

end Sys2Proof.Machine

/-! The outgoing bytes, and which inbound row takes an offered byte. -/

namespace Sys2Proof.Machine

@[simp] theorem outgoing_length (s : State) : (outgoing s).length = s.olen := by simp [outgoing]

theorem outgoing_getElem? {s : State} {j : Nat} (h : j < s.olen) : (outgoing s)[j]? = some (s.obuf.read j) := by
  simp [outgoing, h]

/-- Settles O13: OBUF is read at each index below OLEN. -/
theorem outgoingBytesAreObufInIndexOrder : Obligations.OutgoingBytesAreObufInIndexOrder := by
  unfold Obligations.OutgoingBytesAreObufInIndexOrder
  exact fun s => ⟨outgoing_length s, fun j => outgoing_getElem?⟩

/-- The decode table gives a byte an inbound row in every scanner state (R87). -/
theorem isInbound_decodeRx (v : ScanView) (byte : Byte) : isInbound (decodeRx v byte) := by
  unfold decodeRx
  repeat' split
  all_goals exact ⟨_, rfl⟩

/-- A row of the decode table answers a next state or is refused as not selected. -/
theorem rxRow_completes_or_refused (byte : Byte) (cond : Bool) (s t : State) :
    (∃ u, rxRow byte cond s t = .next u) ∨ rxRow byte cond s t = .refused .rowNotSelected := by
  unfold rxRow
  split
  · exact .inl ⟨t, rfl⟩
  · exact .inr rfl

theorem exec_inbound_completes_or_refused {i : Instr} (hi : isInbound i) (s : State) :
    (∃ t, exec i s = .next t) ∨ exec i s = .refused .rowNotSelected := by
  obtain ⟨byte, hbyte⟩ := hi
  cases i with
  | rxS0Start | rxS0Discard | rxS1Tag | rxS1Discard | rxS2End | rxS2EndShort | rxS2Append | rxS2Overflow
  | rxNotAccepted => exact rxRow_completes_or_refused _ _ s _
  | _ => cases hbyte

/-- A row of the decode table that completes has taken the oldest pending byte under its condition. -/
theorem rxRow_took_offered {s t u : State} {row byte : Byte} {later : List Byte} {cond : Bool}
    (h : rxRow row cond s t = .next u) (hp : s.pending = byte :: later) : byte = row ∧ cond = true := by
  obtain ⟨⟨hhead, hcond⟩, -⟩ := rxRow_next.mp h
  rw [hp, List.head?_cons, Option.some_inj] at hhead
  exact ⟨hhead, hcond⟩

/-- An inbound row completes only where the decode table gives it the offered byte (R87). -/
theorem eq_decodeRx_of_exec_next {i : Instr} (hi : isInbound i) {s t : State} {byte : Byte} {later : List Byte}
    (hp : s.pending = byte :: later) (h : exec i s = .next t) : i = decodeRx s.scanView byte := by
  obtain ⟨_, hbyte⟩ := hi
  cases i with
  | rxS0Start =>
    obtain ⟨rfl, hc⟩ := rxRow_took_offered h hp
    rw [decodeRx_s0 (of_decide_eq_true hc), if_pos rfl]
  | rxS0Discard _ =>
    obtain ⟨rfl, hc⟩ := rxRow_took_offered h hp
    obtain ⟨hs, hb⟩ := of_decide_eq_true hc
    rw [decodeRx_s0 hs, if_neg hb]
  | rxS1Tag =>
    obtain ⟨rfl, hc⟩ := rxRow_took_offered h hp
    rw [decodeRx_s1 (of_decide_eq_true hc), if_pos rfl]
  | rxS1Discard _ =>
    obtain ⟨rfl, hc⟩ := rxRow_took_offered h hp
    obtain ⟨hs, hb⟩ := of_decide_eq_true hc
    rw [decodeRx_s1 hs, if_neg hb]
  | rxS2End =>
    obtain ⟨rfl, hc⟩ := rxRow_took_offered h hp
    obtain ⟨hs, hl⟩ := of_decide_eq_true hc
    rw [decodeRx_s2 hs, if_pos rfl, if_pos hl]
  | rxS2EndShort =>
    obtain ⟨rfl, hc⟩ := rxRow_took_offered h hp
    obtain ⟨hs, hl⟩ := of_decide_eq_true hc
    rw [decodeRx_s2 hs, if_pos rfl, if_neg hl.not_ge]
  | rxS2Append _ =>
    obtain ⟨rfl, hc⟩ := rxRow_took_offered h hp
    obtain ⟨hs, hb, hl⟩ := of_decide_eq_true hc
    rw [decodeRx_s2 hs, if_neg hb, if_pos hl]
  | rxS2Overflow _ =>
    obtain ⟨rfl, hc⟩ := rxRow_took_offered h hp
    obtain ⟨hs, hb, hl⟩ := of_decide_eq_true hc
    rw [decodeRx_s2 hs, if_neg hb, if_neg hl.not_gt]
  | rxNotAccepted _ =>
    obtain ⟨rfl, hc⟩ := rxRow_took_offered h hp
    rw [decodeRx_not_scanning (by simpa using hc)]
  | _ => cases hbyte

/-- Settles O26: the row that R87 gives the byte completes, and an inbound row that completes is that row. -/
theorem exactlyOneRowTakesAnOfferedByte : Obligations.ExactlyOneRowTakesAnOfferedByte := by
  unfold Obligations.ExactlyOneRowTakesAnOfferedByte
  refine fun s byte later hp => ⟨isInbound_decodeRx _ byte, exec_decodeRx_completes hp, fun i hi hne => ?_⟩
  obtain ⟨t, ht⟩ | hrefused := exec_inbound_completes_or_refused hi s
  · exact absurd (eq_decodeRx_of_exec_next hi hp ht) hne
  · exact hrefused

end Sys2Proof.Machine

/-! What a step does to the two byte streams at the transport. -/

namespace Sys2Proof.Machine

/-- What a frame command leaves in TADDR: FRAME_READ records its address (R125). -/
def targetAddr (i : Instr) (s : State) : Byte :=
  match i with
  | .frameRead a _ => a
  | _ => s.taddr

/-- What a framer step does matters only in a block with a framer. -/
theorem withFramer_congr {s : State} {run run' : Host.Outcome State Fault Refusal}
    (h : s.params.framer = true → run = run') : withFramer s run = withFramer s run' := by
  unfold withFramer
  split
  · exact h ‹_›
  · rfl

/-- A frame command is one frame write of the frame it sends (R123 to R125). -/
theorem exec_frameCommand {i : Instr} (hi : isFrameCommand i) (s : State) :
    exec i s = withFramer s (emitFrame (commandFrame i s) { s with taddr := targetAddr i s }) := by
  unfold commandFrame
  obtain ⟨a, b, rfl | rfl | rfl⟩ := hi
  · exact withFramer_congr fun hf => by rw [if_pos hf]; rfl
  · exact withFramer_congr fun hf => by rw [if_pos hf]; rfl
  · exact withFramer_congr fun hf => by rw [if_pos hf]; rfl

/-- The outbound history of `t` is that of `s` with a front part of the frame behind it: the whole frame where the
code is OK, and nothing where the code is neither OK nor TX_ERR (R60, R120). -/
def SendsOf (frame : List Byte) (s t : State) : Prop :=
  (t.cerr = .ok → t.sent = s.sent ++ frame) ∧
  ∃ front, front <+: frame ∧ t.sent = s.sent ++ front ∧ (front ≠ [] → t.cerr = .ok ∨ t.cerr = .txErr)

theorem sendsOf_nil {s t : State} (h : t.sent = s.sent) : SendsOf [] s t :=
  have hnil : t.sent = s.sent ++ [] := h.trans (List.append_nil _).symm
  ⟨fun _ => hnil, [], List.nil_prefix, hnil, fun hne => absurd rfl hne⟩

theorem sendsOf_emitFrame {bytes : List Byte} {s t : State} (h : emitFrame bytes s = .next t) : SendsOf bytes s t := by
  obtain ⟨later, -, rfl⟩ | ⟨taken, later, -, rfl⟩ := emitFrame_next h
  · exact ⟨fun _ => rfl, bytes, List.prefix_rfl, rfl, fun _ => .inl rfl⟩
  · exact ⟨nofun, bytes.take taken, List.take_prefix _ _, rfl, fun _ => .inr rfl⟩

/-- A row that R32 does not let write the outbound history leaves it as it was. -/
theorem sent_same {i : Instr} {s t : State} (h : exec i s = .next t) (he : mayWrite s .sent i = false) :
    t.sent = s.sent := stepsWriteOnlyTheirElements i s t .sent h he

/-- A row that R32 does not let write the pending bytes leaves them as they were. -/
theorem pending_same {i : Instr} {s t : State} (h : exec i s = .next t) (he : mayWrite s .pending i = false) :
    t.pending = s.pending := stepsWriteOnlyTheirElements i s t .pending h he

theorem commandFrame_of_not_framer {s : State} (h : s.params.framer = false) (i : Instr) : commandFrame i s = [] := by
  simp [commandFrame, h]

/-- A command that is no frame command sends no frame and does not write the outbound history (R32). -/
theorem command_sends_nothing {i : Instr} (hi : isCommand i) (hn : ¬ isFrameCommand i) (s : State) :
    commandFrame i s = [] ∧ mayWrite s .sent i = false := by
  obtain ⟨w, hw⟩ := hi
  cases i with
  | frameConfig a b => exact absurd ⟨a, b, .inl rfl⟩ hn
  | frameWrite a b => exact absurd ⟨a, b, .inr (.inl rfl)⟩ hn
  | frameRead a b => exact absurd ⟨a, b, .inr (.inr rfl)⟩ hn
  | frameI2cConfig | frameReqWrite | frameReqRead | frameReply | frameReportFirmware | rxS0Start | rxS0Discard
  | rxS1Tag | rxS1Discard | rxS2End | rxS2EndShort | rxS2Append | rxS2Overflow | rxNotAccepted | rxErr | reset =>
    cases hw
  | _ => simp [commandFrame, mayWrite]

/-- A completed command has sent of the frame that is its own (R60, R120). -/
theorem exec_command_sends {i : Instr} (hi : isCommand i) {s t : State} (h : exec i s = .next t) :
    SendsOf (commandFrame i s) s t := by
  by_cases hframe : isFrameCommand i
  · rw [exec_frameCommand hframe] at h
    cases hf : s.params.framer with
    | true =>
      rw [withFramer_on hf] at h
      exact sendsOf_emitFrame (s := { s with taddr := targetAddr i s }) h
    | false =>
      rw [withFramer_off hf] at h
      cases h
      rw [commandFrame_of_not_framer hf]
      exact sendsOf_nil rfl
  · obtain ⟨hnil, he⟩ := command_sends_nothing hi hframe s
    rw [hnil]
    exact sendsOf_nil (sent_same h he)

/-- No command takes a byte from the transport (R32). -/
theorem command_keeps_pending {i : Instr} (hi : isCommand i) {s t : State} (h : exec i s = .next t) :
    t.pending = s.pending := by
  obtain ⟨w, hw⟩ := hi
  refine pending_same h ?_
  cases i with
  | frameI2cConfig | frameReqWrite | frameReqRead | frameReply | frameReportFirmware | rxS0Start | rxS0Discard
  | rxS1Tag | rxS1Discard | rxS2End | rxS2EndShort | rxS2Append | rxS2Overflow | rxNotAccepted | rxErr | reset =>
    cases hw
  | _ => simp [mayWrite]

/-- A step that presents a frame is the step of the command that sends the frame (log entry 6). -/
theorem step_txFrame {s : State} {bytes : List Byte} (h : nextSignal s = .ok (.txFrame bytes)) :
    ∃ w, bytes = commandFrame (decodeCmd w) s ∧ step s = exec (decodeCmd w) (dropInput s) := by
  obtain ⟨w, rest, hi, hbytes, -⟩ := nextSignal_txFrame h
  exact ⟨w, hbytes, by rw [step_frame hi, dropInput_eq hi]⟩

/-- The byte that is offered is the oldest pending one (R61). -/
theorem nextSignal_rxByte {s : State} {byte : Byte} (h : nextSignal s = .ok (.rxByte byte)) :
    s.pending = byte :: s.pending.tail := by
  unfold nextSignal at h
  split at h <;> try cases h
  · split at h <;> cases h
    rename_i hp
    rw [hp, List.tail_cons]
  · obtain ⟨hword, -⟩ | hframe := frameSignal_eq _ s
    · rw [hword] at h; cases h
    · rw [hframe] at h; cases h

/-- A step on an offered byte has one of the byte shapes. -/
theorem step_rxByte_shape {s t : State} {byte : Byte} (hs : nextSignal s = .ok (.rxByte byte)) (h : step s = .next t) :
    ByteShape (dropInput s) t := by
  rw [step_decoded hs rfl, ← execInbound_decodeRx] at h
  exact execInbound_shape h

/-- A delivery has one of the byte shapes once its bytes have arrived, and then there is a byte to offer. -/
theorem step_line_shape {s t : State} {bytes : List Byte} (hs : nextSignal s = .ok (.line bytes))
    (h : step s = .next t) : s.pending ++ bytes ≠ [] ∧ ByteShape (arrive bytes (dropInput s)) t := by
  rw [step_line hs] at h
  obtain ⟨byte, later, hp, -⟩ := offerOldest_next h
  exact ⟨List.ne_nil_of_mem (hp ▸ List.mem_cons_self), offerOldest_shape h⟩

/-- Settles O37: a command sends of its own frame, a reset finds a front part of the waiting one, and an offer, a
delivery and a read error emit nothing. -/
theorem outboundBytesAreOnlyAppended : Obligations.OutboundBytesAreOnlyAppended := by
  unfold Obligations.OutboundBytesAreOnlyAppended
  refine fun s t h => ⟨fun w hs => ?_, fun bytes hs => ?_, fun waiting hs => ?_,
    fun byte hs => (step_rxByte_shape hs h).sent_eq, fun bytes hs => (step_line_shape hs h).2.sent_eq, fun hs => ?_⟩
  · rw [step_decoded hs rfl] at h
    exact exec_command_sends (s := dropInput s) (isCommand_decodeCmd w) h
  · obtain ⟨w, rfl, hstep⟩ := step_txFrame hs
    rw [hstep] at h
    exact exec_command_sends (s := dropInput s) (isCommand_decodeCmd w) h
  · rw [step_decoded hs rfl] at h
    cases h
    rfl
  · rw [step_decoded hs rfl] at h
    exact sent_same (s := dropInput s) h (by simp [mayWrite])

/-- Settles O38: an offer takes the oldest byte while scanning, and only an offer or a delivery may write the pending
bytes. -/
theorem inboundBytesAreTakenInOrder : Obligations.InboundBytesAreTakenInOrder := by
  unfold Obligations.InboundBytesAreTakenInOrder
  refine fun s t h => ⟨fun byte hs => ⟨nextSignal_rxByte hs, (step_rxByte_shape hs h).pending_eq⟩,
    fun bytes hs => ?_, fun hbyte hline => ?_⟩
  · obtain ⟨hne, hshape⟩ := step_line_shape hs h
    exact ⟨hne, hshape.pending_eq⟩
  · match hs : nextSignal s with
    | .error f => rw [step_waits hs] at h; cases h
    | .ok (.rxByte byte) => exact absurd hs (hbyte byte)
    | .ok (.line bytes) => exact absurd hs (hline bytes)
    | .ok (.cmd w) =>
      rw [step_decoded hs rfl] at h
      exact command_keeps_pending (s := dropInput s) (isCommand_decodeCmd w) h
    | .ok (.txFrame bytes) =>
      obtain ⟨w, -, hstep⟩ := step_txFrame hs
      rw [hstep] at h
      exact command_keeps_pending (s := dropInput s) (isCommand_decodeCmd w) h
    | .ok .rxErr =>
      rw [step_decoded hs rfl] at h
      exact pending_same (s := dropInput s) h (by simp [mayWrite])
    | .ok (.reset waiting) =>
      rw [step_decoded hs rfl] at h
      exact pending_same (s := dropInput s) h rfl

end Sys2Proof.Machine

/-! The framer and the scanner share no element that either of them writes. -/

namespace Sys2Proof.Machine

/-- `s` with the elements that an inbound row may write taken from `u`: SST, PLEN, PBUF and the pending bytes (R32). -/
def State.withScannerOf (s u : State) : State :=
  { s with sst := u.sst, plen := u.plen, pbuf := u.pbuf, pending := u.pending }

/-- A frame command leaves the scanner's elements and the parameters as they are, and does not look at the former. -/
theorem exec_frameCommand_withScannerOf {f : Instr} (hf : isFrameCommand f) {s t : State} (h : exec f s = .next t) :
    t.withScannerOf s = t ∧ t.params = s.params ∧ ∀ u, exec f (s.withScannerOf u) = .next (t.withScannerOf u) := by
  simp only [exec_frameCommand hf] at h ⊢
  cases hframer : s.params.framer with
  | false =>
    rw [withFramer_off hframer] at h
    cases h
    exact ⟨rfl, rfl, fun u => withFramer_off (s := s.withScannerOf u) hframer _⟩
  | true =>
    rw [withFramer_on hframer] at h
    obtain ⟨later, ha, rfl⟩ | ⟨taken, later, ha, rfl⟩ := emitFrame_next h
    · exact ⟨rfl, rfl, fun u => (withFramer_on (s := s.withScannerOf u) hframer _).trans (emitFrame_accept ha)⟩
    · exact ⟨rfl, rfl, fun u => (withFramer_on (s := s.withScannerOf u) hframer _).trans (emitFrame_error ha)⟩

/-- An inbound row changes the scanner's elements only, and looks at these and the parameters only. -/
theorem exec_inbound_withScannerOf {i : Instr} (hi : isInbound i) {s u : State} (h : exec i s = .next u) :
    s.withScannerOf u = u ∧
      ∀ t : State, t.params = s.params → exec i (t.withScannerOf s) = .next (t.withScannerOf u) := by
  obtain ⟨byte, hbyte⟩ := hi
  cases i with
  | rxS0Start | rxS0Discard | rxS1Tag | rxS1Discard | rxS2End | rxS2EndShort | rxNotAccepted =>
    obtain ⟨hc, rfl⟩ := rxRow_next.mp h
    exact ⟨rfl, fun t _ => rxRow_next.mpr ⟨hc, rfl⟩⟩
  | rxS2Append | rxS2Overflow =>
    obtain ⟨hc, rfl⟩ := rxRow_next.mp h
    exact ⟨rfl, fun t ht => rxRow_next.mpr ⟨by rw [← ht] at hc; exact hc, rfl⟩⟩
  | _ => cases hbyte

/-- Settles O39: both orders end in the frame command's state with the inbound row's scanner elements. -/
theorem framerAndScannerCommute : Obligations.FramerAndScannerCommute := by
  unfold Obligations.FramerAndScannerCommute
  intro f i s t u hf hi hft hiu
  obtain ⟨hkept, hparams, hframe⟩ := exec_frameCommand_withScannerOf hf hft
  obtain ⟨hchanged, hinbound⟩ := exec_inbound_withScannerOf hi hiu
  refine ⟨t.withScannerOf u, ?_, ?_⟩
  · rw [← hinbound t hparams, hkept]
  · rw [← hframe u, hchanged]

end Sys2Proof.Machine

/-! The reply frame read back from PBUF and at the ports. -/

namespace Sys2Proof.Machine

/-- In DONE the result port gives its value (R167). -/
theorem onDone_of_done {α : Type} {s : State} (hd : s.sst = .done) (v : α) : onDone s v = .ok v := if_pos hd

/-- In DONE a data byte below DCOUNT is given (R165, R167). -/
theorem readReplyData_of_lt {s : State} {k : Nat} (hd : s.sst = .done) (hk : k < dcount s) :
    readReplyData s k = .ok (replyData s k) := by
  rw [readReplyData, if_neg (fun h => hk.not_ge h.2), onDone_of_done hd]

/-- Settles O47: the scan stores the reply's payload, and the ports read the payload back. -/
theorem wellFormedReplyIsDecoded : Obligations.WellFormedReplyIsDecoded := by
  unfold Obligations.WellFormedReplyIsDecoded
  intro s addr reg data later rest hs h0 hw hfit hp hi
  obtain ⟨t, hrun, hd, hpending, htaddr, h⟩ : ∃ t, runSteps (7 + 2 * data.length) s = .next t ∧ t.sst = .done ∧
      t.pending = later ∧ t.taddr = s.taddr ∧ HoldsReply addr reg data t :=
    ⟨_, (scanRun_reply addr reg data hs h0 hfit hp hi).runSteps, rfl, rfl, rfl, Memory.map_read_writeFrom hw _⟩
  refine ⟨t, hrun, hd, hpending, ?_, ?_, ?_, fun k hk => ?_, ?_⟩
  · rw [readReplyAddr, onDone_of_done hd, h.replyAddr]
  · rw [readReplyReg, onDone_of_done hd, h.replyReg]
  · rw [readDcount, onDone_of_done hd, h.dcount]
  · rw [readReplyData_of_lt hd (by rwa [h.dcount]), h.replyData hk]
  · rw [h.matchFlag hd, htaddr]

end Sys2Proof.Machine

/-! The decoder and the encoder undo each other. -/

namespace Sys2Proof

/-- A word whose RSV field is 0 is the operation its OP selects (R71, R72). -/
theorem decodeCmd_of_rsv_zero {w : CmdWord} (h : w.extractLsb' 4 4 = 0#4) :
    decodeCmd w = decodeOp (w.extractLsb' 0 4) (w.extractLsb' 8 8) (w.extractLsb' 16 8) := if_pos h

/-- A word whose RSV field is not 0 is RESERVED_RSV, whatever its OP (R73, R204). -/
theorem decodeCmd_of_rsv_ne_zero {w : CmdWord} (h : w.extractLsb' 4 4 ≠ 0#4) :
    decodeCmd w =
      .reservedRsv (w.extractLsb' 4 4) (w.extractLsb' 0 4) (w.extractLsb' 8 8) (w.extractLsb' 16 8) := if_neg h

theorem decodeCmd_cmdWord (b a : Byte) (op : BitVec 4) : decodeCmd (cmdWord b a 0#4 op) = decodeOp op a b := by
  rw [decodeCmd_of_rsv_zero (cmdWord_rsv b a _ op), cmdWord_op, cmdWord_a, cmdWord_b]

theorem decodeCmd_cmdWord_rsv (b a : Byte) {rsv : BitVec 4} (op : BitVec 4) (h : rsv ≠ 0#4) :
    decodeCmd (cmdWord b a rsv op) = .reservedRsv rsv op a b := by
  rw [decodeCmd_of_rsv_ne_zero (by rwa [cmdWord_rsv]), cmdWord_rsv, cmdWord_op, cmdWord_a, cmdWord_b]

/-- Each of the sixteen OP values selects a well-formed row whose encoding has that OP (R71, R72). -/
theorem decodeOp_encode (op : BitVec 4) (a b : Byte) :
    (decodeOp op a b).wellFormed = true ∧ encode (decodeOp op a b) = .cmd (cmdWord b a 0#4 op) := by
  obtain ⟨n, hn⟩ := op
  interval_cases n <;> exact ⟨rfl, rfl⟩

/-- Settles O43: RSV first, then the OP; the word is put together again from its four fields. -/
theorem commandWordsAreNeverConfused : Obligations.CommandWordsAreNeverConfused := by
  unfold Obligations.CommandWordsAreNeverConfused
  intro w
  have hfields := cmdWord_fields w
  by_cases h : w.extractLsb' 4 4 = 0#4
  · obtain ⟨hwf, hencode⟩ := decodeOp_encode (w.extractLsb' 0 4) (w.extractLsb' 8 8) (w.extractLsb' 16 8)
    rw [decodeCmd_of_rsv_zero h]
    rw [h] at hfields
    exact ⟨hwf, by rw [hencode, hfields]⟩
  · rw [decodeCmd_of_rsv_ne_zero h]
    exact ⟨bne_iff_ne.mpr h, congrArg Signal.cmd hfields⟩

/-- A 7-bit unit has bit 7 clear (R79, R104(a)). -/
theorem unit_lt (v : BitVec 7) : v.setWidth 8 < 0x80#8 := by
  revert v; decide

/-- A reply frame is read back as the reply it was built from (R79). -/
theorem decodeLine_replyFrame (addr reg : BitVec 14) (data : List Byte) :
    decodeLine (replyFrame addr reg data) = .ok (.frameReply addr reg data) := by
  have narrow (v : BitVec 14) : (v.setWidth 15).setWidth 14 = v := by simp
  simp [decodeLine, replyFrame, replyPayload, fieldUnits, unit_lt, unpack_fieldUnits, narrow, readPairs_packPairs,
    i2cReply, reportFirmware]

/-- The decode table gives an inbound row's byte that row back where the row's condition holds (R87). -/
theorem decodeRx_of_selectable {v : ScanView} {i : Instr} {byte : Byte} (hi : encode i = .rxByte byte)
    (hw : i.wellFormed = true) (hs : i.selectable v = true) : decodeRx v byte = i := by
  cases i with
  | rxS0Start | rxS1Tag =>
    cases hi
    simp [decodeRx, of_decide_eq_true hs]
  | rxS0Discard | rxS1Discard =>
    cases hi
    simp [decodeRx, of_decide_eq_true hs, bne_iff_ne.mp hw]
  | rxS2End =>
    cases hi
    obtain ⟨hsst, hl⟩ := of_decide_eq_true hs
    simp [decodeRx, hsst, hl]
  | rxS2EndShort =>
    cases hi
    obtain ⟨hsst, hl⟩ := of_decide_eq_true hs
    simp [decodeRx, hsst, hl.not_ge]
  | rxS2Append =>
    cases hi
    obtain ⟨hsst, hl⟩ := of_decide_eq_true hs
    simp [decodeRx, hsst, bne_iff_ne.mp hw, hl]
  | rxS2Overflow =>
    cases hi
    obtain ⟨hsst, hl⟩ := of_decide_eq_true hs
    simp [decodeRx, hsst, bne_iff_ne.mp hw, hl.not_gt]
  | rxNotAccepted =>
    cases hi
    obtain ⟨h0, h1, h2⟩ := of_decide_eq_true hs
    cases hsst : v.sst with
    | s0 => exact absurd hsst h0
    | s1 => exact absurd hsst h1
    | s2 => exact absurd hsst h2
    | _ => simp [decodeRx, hsst]
  | _ => cases hi

/-- Settles O42: a command word by its fields, a frame by its layout, an inbound byte by the table of R87. -/
theorem decodeInvertsEncode : Obligations.DecodeInvertsEncode := by
  unfold Obligations.DecodeInvertsEncode
  intro v i hw hs
  cases i with
  | nop a b | outClear a b | outPush a b | frameConfig a b | frameWrite a b | frameRead a b | scanStart a b
  | pack a b | unpack a b | reservedOp9 a b | reservedOpA a b | reservedOpB a b | reservedOpC a b | reservedOpD a b
  | reservedOpE a b | reservedOpF a b => exact congrArg Except.ok (decodeCmd_cmdWord b a _)
  | reservedRsv rsv op a b => exact congrArg Except.ok (decodeCmd_cmdWord_rsv b a op (bne_iff_ne.mp hw))
  | frameI2cConfig => rfl
  | frameReqWrite addr out => exact decodeTxFrame_write addr out
  | frameReqRead addr out => exact decodeTxFrame_read addr out
  | frameReply addr reg data => exact decodeLine_replyFrame addr reg data
  | frameReportFirmware rest => rfl
  | rxS0Start | rxS0Discard | rxS1Tag | rxS1Discard | rxS2End | rxS2EndShort | rxS2Append | rxS2Overflow
  | rxNotAccepted => exact congrArg Except.ok (decodeRx_of_selectable rfl hw hs)
  | rxErr => rfl
  | reset waiting => rfl

/-- Settles O41: the decoder run on each word. -/
theorem specWordsDecode : Obligations.SpecWordsDecode := by
  unfold Obligations.SpecWordsDecode
  decide

end Sys2Proof

/-! The layouts of the frames, and which frames are well-formed. -/

namespace Sys2Proof

/-- Behind a header, the units of byte `j` stand at `2j` and `2j + 1`, and the end marker stands last (R53). -/
theorem packed_getElem? (header data : List Byte) :
    (∀ j, ∀ h : j < data.length,
      (header ++ (packPairs data ++ [endMarker]))[header.length + 2 * j]? = some (packLow data[j]) ∧
      (header ++ (packPairs data ++ [endMarker]))[header.length + 1 + 2 * j]? = some (packHigh data[j])) ∧
    (header ++ (packPairs data ++ [endMarker]))[header.length + 2 * data.length]? = some endMarker := by
  have behind (k : Nat) : (header ++ (packPairs data ++ [endMarker]))[header.length + k]? =
      (packPairs data ++ [endMarker])[k]? := by
    rw [List.getElem?_append_right (Nat.le_add_right _ _), Nat.add_sub_cancel_left]
  refine ⟨fun j hj => ?_, ?_⟩
  · have hlen := packPairs_length data
    obtain ⟨hlow, hhigh⟩ := packPairs_getElem? data hj
    rw [Nat.add_assoc, Nat.add_comm 1, behind, behind, List.getElem?_append_left (by omega),
      List.getElem?_append_left (by omega)]
    exact ⟨hlow, hhigh⟩
  · rw [behind, ← packPairs_length data, List.getElem?_concat_length]

/-- Settles O12: a request frame is a header of four bytes and a reply frame one of six, each before packed pairs. -/
theorem frameLayouts : Obligations.FrameLayouts := by
  unfold Obligations.FrameLayouts
  refine ⟨rfl, fun addr mode out _ => ?_, fun addr reg data => ?_⟩
  · obtain ⟨hpairs, hend⟩ := packed_getElem? [startMarker, i2cRequest, addr, mode] out
    exact ⟨by simp [requestFrame, packPairs_length]; omega, rfl, hpairs, hend⟩
  · obtain ⟨hpairs, hend⟩ := packed_getElem? (startMarker :: i2cReply :: (fieldUnits addr ++ fieldUnits reg)) data
    exact ⟨replyPayload_length addr reg data, by simp [replyFrame], rfl, hpairs, hend⟩

/-- Packed units are at most 0x7F (R104(a)). -/
theorem le_of_mem_packPairs {data : List Byte} {x : Byte} (h : x ∈ packPairs data) : x ≤ 0x7F#8 := by
  induction data with
  | nil => cases h
  | cons b rest ih =>
    rw [packPairs, List.mem_cons, List.mem_cons] at h
    obtain rfl | rfl | h := h
    · have := packLow_lt b
      bv_omega
    · have := packHigh_lt b
      bv_omega
    · exact ih h

end Sys2Proof

namespace Sys2Proof.Machine

/-- Between the markers exactly the bytes of at most 0x7F are well-formed (R83). -/
theorem frameWellFormed_iff (body : List Byte) :
    FrameWellFormed (startMarker :: (body ++ [endMarker])) ↔ ∀ x ∈ body, x ≤ 0x7F#8 := by
  constructor
  · rintro ⟨body', heq, hle⟩
    rwa [List.append_cancel_right (List.cons_injective heq)]
  · exact fun hle => ⟨body, rfl, hle⟩

theorem frameWellFormed_configFrame : FrameWellFormed configFrame :=
  (frameWellFormed_iff [i2cConfig, 0x00#8, 0x00#8]).mpr (by decide)

/-- The raw address is the one byte of a request frame that can break R83's invariant (R127). -/
theorem frameWellFormed_requestFrame {mode : Byte} (hmode : mode = writeMode ∨ mode = readMode) (addr : Byte)
    (out : List Byte) : FrameWellFormed (requestFrame mode addr out) ↔ addr ≤ 0x7F#8 := by
  have htag : i2cRequest ≤ 0x7F#8 := by decide
  have hmodeLe : mode ≤ 0x7F#8 := by obtain rfl | rfl := hmode <;> decide
  refine (frameWellFormed_iff (i2cRequest :: addr :: mode :: packPairs out)).trans ⟨fun h => ?_, fun h => ?_⟩
  · exact h addr (by simp)
  · simp only [List.forall_mem_cons]
    exact ⟨htag, h, hmodeLe, fun x => le_of_mem_packPairs⟩

/-- Settles O18: the tag, the mode byte and the packed units are at most 0x7F, so only the address decides. -/
theorem requestFramesAreWellFormedBelow0x80 : Obligations.RequestFramesAreWellFormedBelow0x80 := by
  unfold Obligations.RequestFramesAreWellFormedBelow0x80
  exact ⟨frameWellFormed_configFrame, fun addr mode out hmode => ⟨frameWellFormed_requestFrame hmode addr out, rfl⟩⟩

end Sys2Proof.Machine

/-! Command words: the illegal ones, and that each one completes or waits. -/

namespace Sys2Proof.Machine

/-- Settles O33: each reserved row is the illegal command. -/
theorem reservedRowsComplete : Obligations.ReservedRowsComplete := by
  unfold Obligations.ReservedRowsComplete
  exact fun a b s => ⟨rfl, rfl, rfl, rfl, rfl, rfl, rfl, fun rsv op => rfl⟩

/-- Settles O17: without a framer a framer step is a reserved word. -/
theorem withoutFramerItsCommandsAreReserved : Obligations.WithoutFramerItsCommandsAreReserved := by
  unfold Obligations.WithoutFramerItsCommandsAreReserved
  intro a b s hf
  have hoff := withFramer_off hf
  exact ⟨hoff _, hoff _, hoff _, hoff _, hoff _⟩

/-- The OP values 9 to 15 are reserved (R72). -/
theorem exec_decodeOp_reserved {op : BitVec 4} (h : 9 ≤ op.toNat) (a b : Byte) (s : State) :
    exec (decodeOp op a b) s = .next { s with cerr := .illegal } := by
  unfold decodeOp
  split
  iterate 9 omega
  all_goals rfl

/-- A word with a non-zero RSV field or a reserved OP records ILLEGAL and does nothing else (R72, R73). -/
theorem exec_decodeCmd_illegal {w : CmdWord} (h : w.extractLsb' 4 4 ≠ 0#4 ∨ 9 ≤ (w.extractLsb' 0 4).toNat) (s : State) :
    exec (decodeCmd w) s = .next { s with cerr := .illegal } := by
  by_cases hrsv : w.extractLsb' 4 4 = 0#4
  · rw [decodeCmd_of_rsv_zero hrsv]
    exact exec_decodeOp_reserved (h.resolve_left (not_not_intro hrsv)) _ _ s
  · rw [decodeCmd_of_rsv_ne_zero hrsv]
    rfl

/-- Settles O32: the step of an illegal word is the illegal command. -/
theorem illegalWordsOnlyRecordIllegal : Obligations.IllegalWordsOnlyRecordIllegal := by
  unfold Obligations.IllegalWordsOnlyRecordIllegal
  exact fun s w rest hi h => ⟨by rw [step_cmd hi, exec_decodeCmd_illegal h], rfl⟩

/-- The offer of a byte leaves the events to come. -/
theorem ByteShape.inputs_eq {s t : State} (h : ByteShape s t) : t.inputs = s.inputs := by cases h <;> rfl

/-- No row uses up an event: only the fetch does. -/
theorem Shape.inputs_eq {i : Instr} {s t : State} (h : Shape i s t) : t.inputs = s.inputs := by
  cases h with
  | offer h => exact h.inputs_eq
  | deliver bytes h => exact h.inputs_eq
  | _ => rfl

/-- Settles O34: the word decodes to a command row, which completes or waits, and only the fetch uses up an event. -/
theorem everyCommandWordRunsOrWaits : Obligations.EveryCommandWordRunsOrWaits := by
  unfold Obligations.EveryCommandWordRunsOrWaits
  intro s w rest hi
  rw [step_cmd hi]
  exact (exec_command (isCommand_decodeCmd w) _).imp_left fun ⟨t, ht⟩ => ⟨t, ht, (exec_shape ht).inputs_eq⟩

end Sys2Proof.Machine

/-! The frames of the framer, as steps of the frame commands. -/

namespace Sys2Proof.Machine

/-- One frame write of the framer, by what the transport answers; a read request has set TADDR first (R120, R125). -/
theorem withFramer_emitFrame_cases (bytes : List Byte) (a : Byte) (s : State) (later : List TxAnswer) :
    (s.params.framer = true → s.txAnswers = .accept :: later →
      withFramer s (emitFrame bytes { s with taddr := a }) =
        .next { s with taddr := a, sent := s.sent ++ bytes, cerr := .ok, txAnswers := later }) ∧
    (∀ taken, s.params.framer = true → s.txAnswers = .error taken :: later →
      withFramer s (emitFrame bytes { s with taddr := a }) =
        .next { s with taddr := a, sent := s.sent ++ bytes.take taken, cerr := .txErr, txAnswers := later }) ∧
    (s.params.framer = true → s.txAnswers = [] →
      withFramer s (emitFrame bytes { s with taddr := a }) = .fault .waitsForTransport) ∧
    (s.params.framer = false →
      withFramer s (emitFrame bytes { s with taddr := a }) = .next { s with cerr := .illegal }) :=
  ⟨fun hf ha => (withFramer_on hf _).trans (emitFrame_accept ha),
    fun _ hf ha => (withFramer_on hf _).trans (emitFrame_error ha),
    fun hf ha => (withFramer_on hf _).trans (emitFrame_waits ha),
    fun hf => withFramer_off hf _⟩

/-- Settles O16: each of the three rows is one frame write, the same that its command makes with OBUF's bytes. -/
theorem sentFrameRowsComplete : Obligations.SentFrameRowsComplete := by
  unfold Obligations.SentFrameRowsComplete
  refine ⟨?_, fun a b s => ⟨rfl, rfl, rfl⟩⟩
  rintro i bytes s u later (⟨rfl, rfl, rfl⟩ | ⟨addr, out, rfl, rfl, rfl⟩ | ⟨addr, out, rfl, rfl, rfl⟩)
  · exact withFramer_emitFrame_cases configFrame u.taddr u later
  · exact withFramer_emitFrame_cases (requestFrame writeMode addr out) u.taddr u later
  · exact withFramer_emitFrame_cases (requestFrame readMode addr out) addr s later

end Sys2Proof.Machine

/-! The byte codec as numbers: `pack` splits a byte at bit 7, `unpack` joins two units at bit 7. -/

namespace Sys2Proof

/-- `low7` is the byte modulo 128 (R100). -/
theorem packLow_toNat (b : Byte) : (packLow b).toNat = b.toNat % 128 :=
  (BitVec.toNat_and b 0x7F#8).trans (Nat.and_two_pow_sub_one_eq_mod b.toNat 7)

/-- `unpack` is the OR of its inputs at 15 bits, also where they overlap (R101, R104(b)). -/
theorem unpack_toNat (l h : Byte) : (unpack l h).toNat = l.toNat ||| 128 * h.toNat := by
  have hlow : (l.setWidth 15).toNat = l.toNat := by
    rw [BitVec.toNat_setWidth]
    omega
  have hhigh : (h.setWidth 15 <<< 7).toNat = 128 * h.toNat := by
    rw [BitVec.toNat_shiftLeft, BitVec.toNat_setWidth, Nat.shiftLeft_eq]
    omega
  rw [unpack, BitVec.toNat_or, hlow, hhigh]

/-- With bit 7 of the low unit clear nothing overlaps, and the OR is a sum (R104(c)). -/
theorem unpack_toNat_of_low {l : Byte} (hl : l.toNat < 128) (h : Byte) :
    (unpack l h).toNat = l.toNat + 128 * h.toNat := by
  rw [unpack_toNat, Nat.add_comm, Nat.two_pow_add_eq_or_of_lt (i := 7) hl, Nat.or_comm]

theorem unpack8_toNat (l h : Byte) : (unpack8 l h).toNat = (l.toNat ||| 128 * h.toNat) % 256 := by
  rw [unpack8, BitVec.extractLsb'_toNat, Nat.shiftRight_zero, unpack_toNat]

/-- Of the high unit only bit 0 is in the low 8 bits of `unpack` (R102). -/
theorem unpack8_eq_or (l h : Byte) : unpack8 l h = l ||| ((h &&& 0x01#8) <<< 7) := by
  refine BitVec.eq_of_getLsbD_eq fun i hi => ?_
  by_cases h7 : i < 7
  · simp [unpack8, unpack, h7, hi, show i < 15 by omega]
  · obtain rfl : i = 7 := by omega
    simp [unpack8, unpack]

/-- Two units of at most 0x7F are determined by what they unpack to (R104(c)). -/
theorem unpack_injective_of_low {l h l' h' : Byte} (hl : l.toNat < 128) (hl' : l'.toNat < 128)
    (heq : unpack l h = unpack l' h') : l = l' ∧ h = h' := by
  have hsum := congrArg BitVec.toNat heq
  rw [unpack_toNat_of_low hl, unpack_toNat_of_low hl'] at hsum
  exact ⟨BitVec.eq_of_toNat_eq (by omega), BitVec.eq_of_toNat_eq (by omega)⟩

/-- `unpack` undoes `pack` (R103). -/
theorem unpack_pack (b : Byte) : unpack (packLow b) (packHigh b) = b.setWidth 15 := by
  have hlow : (packLow b).toNat < 128 := packLow_lt b
  refine BitVec.eq_of_toNat_eq ?_
  rw [unpack_toNat_of_low hlow, packLow_toNat, packHigh_toNat, BitVec.toNat_setWidth]
  omega

/-- Settles O5: the sum of the two units is the byte. -/
theorem unpackInvertsPack : Obligations.UnpackInvertsPack := by
  unfold Obligations.UnpackInvertsPack
  exact fun b => ⟨unpack_pack b, unpack8_pack b⟩

/-- No byte of at most 0x7F is a marker (R104(a)). -/
theorem ne_marker_of_le {x : Byte} (hx : x ≤ 0x7F#8) : x ≠ startMarker ∧ x ≠ endMarker := by
  constructor <;> (rintro rfl; revert hx; decide)

/-- The units of a byte stay below 0x80, and the high one is the byte's bit 7 (R100, R104(a)). -/
theorem pack_ranges (b : Byte) : packLow b ≤ 0x7F#8 ∧ packHigh b ≤ 0x7F#8 ∧
    (b ≤ 0x7F#8 → packHigh b = 0x00#8) ∧ (0x80#8 ≤ b → packHigh b = 0x01#8) := by
  have hlow := packLow_toNat b
  have hhigh := packHigh_toNat b
  refine ⟨?_, ?_, fun hb => ?_, fun hb => ?_⟩ <;> bv_omega

/-- Settles O6: `unpack` is an OR of numbers, and a sum where the low unit leaves bit 7 to the high one. -/
theorem packAndUnpackRanges : Obligations.PackAndUnpackRanges := by
  unfold Obligations.PackAndUnpackRanges
  refine ⟨fun l h => ?_, by decide, by decide, by decide, by decide, fun b => ?_, fun l h hl hh => ?_,
    fun l h l' h' hl _ hl' _ => ?_, by decide, by decide⟩
  · have hmax : (unpack l h).toNat ≤ 0x7FFF := Nat.le_of_lt_succ (unpack l h).isLt
    exact ⟨unpack_toNat l h, hmax, unpack8_toNat l h, unpack8_eq_or l h⟩
  · obtain ⟨hlow, hhigh, hzero, hone⟩ := pack_ranges b
    obtain ⟨hlowStart, hlowEnd⟩ := ne_marker_of_le hlow
    obtain ⟨hhighStart, hhighEnd⟩ := ne_marker_of_le hhigh
    exact ⟨hlow, hhigh, hlowStart, hlowEnd, hhighStart, hhighEnd, hzero, hone⟩
  · have hsum := unpack_toNat_of_low (Nat.lt_succ_of_le hl) h
    exact ⟨hsum, by bv_omega⟩
  · exact unpack_injective_of_low (Nat.lt_succ_of_le hl) (Nat.lt_succ_of_le hl')

end Sys2Proof

/-! NOP and the codec's two commands. -/

namespace Sys2Proof.Machine

/-- The CERR field of STATUS (R29). -/
theorem readStatus_cerr (s : State) : (readStatus s).extractLsb' 4 4 = cerrCode s.cerr := by
  obtain ⟨-, -, -, hcerr, -⟩ := statusLayout s
  exact hcerr

/-- Settles O7: NOP is the bare completion of a command. -/
theorem nopOnlyRecordsOk : Obligations.NopOnlyRecordsOk := by
  unfold Obligations.NopOnlyRecordsOk
  exact fun a b s => ⟨decodeCmd_cmdWord b a 0x0#4, rfl, readStatus_cerr { s with cerr := .ok }⟩

/-- Settles O8: CODEC_OUT is written as an append, and each part is read back. -/
theorem packAndUnpackCommandsWriteCodecOut : Obligations.PackAndUnpackCommandsWriteCodecOut := by
  unfold Obligations.PackAndUnpackCommandsWriteCodecOut
  refine fun a b s => ⟨⟨decodeCmd_cmdWord b a 0x7#4, packHigh a ++ packLow a, rfl, ?_, ?_⟩,
    decodeCmd_cmdWord b a 0x8#4, 0#1 ++ unpack a b, rfl, ?_, ?_⟩
  · exact BitVec.extractLsb'_append_eq_right
  · exact BitVec.extractLsb'_append_eq_left
  · exact BitVec.extractLsb'_append_eq_right
  · exact BitVec.extractLsb'_append_eq_left

end Sys2Proof.Machine

/-! OUT_CLEAR and OUT_PUSH, and the frame commands in a block with a framer. -/

namespace Sys2Proof.Machine

/-- Settles O9: with a framer OUT_CLEAR is its own run. -/
theorem outClearEmptiesTheOutgoingBuffer : Obligations.OutClearEmptiesTheOutgoingBuffer := by
  unfold Obligations.OutClearEmptiesTheOutgoingBuffer
  exact fun a b s hf => ⟨decodeCmd_cmdWord b a 0x1#4, exec_outClear a b hf⟩

/-- With OBUF full, OUT_PUSH records OUT_OVF and stores nothing (R122). -/
theorem exec_outPush_full {s : State} (a b : Byte) (hf : s.params.framer = true) (h : s.params.outMax ≤ s.olen) :
    exec (.outPush a b) s = .next { s with cerr := .outOvf } :=
  (withFramer_on hf _).trans (if_neg (Nat.not_lt.mpr h))

/-- Settles O10: the push is one write of OBUF, read back at OLEN and leaving every other index. -/
theorem outPushAppendsOneByte : Obligations.OutPushAppendsOneByte := by
  unfold Obligations.OutPushAppendsOneByte
  refine fun a b s hf => ⟨decodeCmd_cmdWord b a 0x2#4, fun hroom hwf => ?_, fun hfull => ?_⟩
  · exact ⟨_, exec_outPush a b hf hroom, rfl, Memory.read_write_same hwf s.olen a,
      fun i hi => Memory.read_write_other hi.symm s.obuf a⟩
  · exact exec_outPush_full a b hf hfull.ge

/-- Settles O11: a prefix is what a write error after as many bytes as it has leaves emitted. -/
theorem emitFrameOutcomes : Obligations.EmitFrameOutcomes := by
  unfold Obligations.EmitFrameOutcomes
  refine fun bytes s later => ⟨emitFrame_accept, fun taken ha => ?_, fun front hfront => ?_, emitFrame_waits⟩
  · exact ⟨bytes.take taken, List.take_prefix taken bytes, emitFrame_error ha⟩
  · refine ⟨front.length, ?_⟩
    rw [emitFrame_error rfl, ← List.prefix_iff_eq_take.mp hfront]

/-- Settles O14: each frame command is one frame write, of the frame its layout gives. -/
theorem frameCommandsSendTheirFrames : Obligations.FrameCommandsSendTheirFrames := by
  unfold Obligations.FrameCommandsSendTheirFrames
  intro a b s later hf
  obtain ⟨configAccept, configError, -⟩ := withFramer_emitFrame_cases configFrame s.taddr s later
  obtain ⟨writeAccept, writeError, -⟩ :=
    withFramer_emitFrame_cases (requestFrame writeMode a (outgoing s)) s.taddr s later
  obtain ⟨readAccept, readError, -⟩ := withFramer_emitFrame_cases (requestFrame readMode a (outgoing s)) a s later
  exact ⟨decodeCmd_cmdWord b a 0x3#4, decodeCmd_cmdWord b a 0x4#4, decodeCmd_cmdWord b a 0x5#4,
    fun ha => ⟨configAccept hf ha, writeAccept hf ha, readAccept hf ha⟩,
    fun taken ha => ⟨configError taken hf ha, writeError taken hf ha, readError taken hf ha⟩⟩

section
variable {i : Instr} {s : State} (hi : isFrameCommand i) (hf : s.params.framer = true)
include hi hf

/-- With a framer a frame command is the write of its frame, with TADDR set first (R123 to R125). -/
theorem exec_frameCommand_on :
    exec i s = emitFrame (commandFrame i s) { s with taddr := targetAddr i s } :=
  (exec_frameCommand hi s).trans (withFramer_on hf _)

/-- An answered frame command writes TADDR, the outbound history, the code and the answers, and nothing else (R120). -/
theorem exec_frameCommand_answered (ha : s.txAnswers ≠ []) : ∃ sent code later,
    exec i s = .next { s with taddr := targetAddr i s, sent := sent, cerr := code, txAnswers := later } := by
  obtain ⟨answer, later, hl⟩ := List.exists_cons_of_ne_nil ha
  cases answer with
  | accept => exact ⟨_, _, later, (exec_frameCommand_on hi hf).trans (emitFrame_accept hl)⟩
  | error taken => exact ⟨_, _, later, (exec_frameCommand_on hi hf).trans (emitFrame_error hl)⟩

end

/-- Of the frame commands only FRAME_READ gives TADDR another value, its address (R125). -/
theorem targetAddr_frameCommand {i : Instr} (hi : isFrameCommand i) (s : State) :
    targetAddr i s = s.taddr ∨ ∃ a b, i = .frameRead a b ∧ targetAddr i s = a := by
  obtain ⟨a, b, rfl | rfl | rfl⟩ := hi
  · exact .inl rfl
  · exact .inl rfl
  · exact .inr ⟨a, b, rfl, rfl⟩

/-- Settles O15: the frame write of a frame command waits without an answer. -/
theorem frameCommandsWaitForTheTransport : Obligations.FrameCommandsWaitForTheTransport := by
  unfold Obligations.FrameCommandsWaitForTheTransport
  exact fun i s hi hf ha => (exec_frameCommand_on hi hf).trans (emitFrame_waits ha)

/-- Settles O19: no element of the buffers or the scanner is among those an answered frame command writes. -/
theorem frameCommandsKeepBuffersAndScanner : Obligations.FrameCommandsKeepBuffersAndScanner := by
  unfold Obligations.FrameCommandsKeepBuffersAndScanner
  intro i s hi hf ha
  obtain ⟨sent, code, later, hexec⟩ := exec_frameCommand_answered hi hf ha
  exact ⟨_, hexec, rfl, fun _ => rfl, rfl, rfl, fun _ => rfl, rfl, rfl, targetAddr_frameCommand hi s⟩

end Sys2Proof.Machine

/-! The scanner's rows: SCAN_START, each offered byte, the read error and the wait. -/

namespace Sys2Proof.Machine

theorem not_scanning_of_ne {sst : Sst} (h0 : sst ≠ .s0) (h1 : sst ≠ .s1) (h2 : sst ≠ .s2) : scanning sst = false := by
  simpa [h0, h1, h2] using scanning_cases sst

theorem scanning_of_eq {sst : Sst} (h : sst = .s0 ∨ sst = .s1 ∨ sst = .s2) : scanning sst = true := by
  obtain rfl | rfl | rfl := h <;> rfl

/-- While scanning SCAN_START records BUSY (R150). -/
theorem exec_scanStart_busy {s : State} (a b : Byte) (hs : scanning s.sst = true) :
    exec (.scanStart a b) s = .next { s with cerr := .busy } := if_pos hs

/-- While scanning a read error aborts the scan (R160). -/
theorem exec_rxErr_scanning {s : State} (hs : scanning s.sst = true) :
    exec .rxErr s = .next { s with sst := .abort } := by
  simp [exec, execRxErr, hs]

/-- Outside a scan a read error has no effect (R160). -/
theorem exec_rxErr_not_scanning {s : State} (hs : scanning s.sst = false) : exec .rxErr s = .next s := by
  simp [exec, execRxErr, hs]

/-- Outside DONE the result port refuses (R167). -/
theorem onDone_of_ne_done {α : Type} {s : State} (hd : s.sst ≠ .done) (v : α) : onDone s v = .error .resultNotDone :=
  if_neg hd

/-- MATCH compares the reply's address with TADDR, in DONE only (R166). -/
theorem matchFlag_iff (s : State) :
    matchFlag s = true ↔ s.sst = .done ∧ (replyAddr s).toNat = s.taddr.toNat := by
  rw [matchFlag, decide_eq_true_iff, ← BitVec.toNat_inj, BitVec.toNat_setWidth_of_le (by omega)]

/-- In DONE MATCH is the comparison alone (R166). -/
theorem matchFlag_of_done {s : State} (hd : s.sst = .done) :
    matchFlag s = decide (replyAddr s = s.taddr.setWidth 15) := decide_eq_decide.mpr (and_iff_right hd)

theorem matchFlag_of_ne_done {s : State} (hd : s.sst ≠ .done) : matchFlag s = false := by
  simp [matchFlag, hd]

/-- Settles O20: the two cases of SCAN_START, by whether a scan is in progress. -/
theorem scanStartArmsTheScanner : Obligations.ScanStartArmsTheScanner := by
  unfold Obligations.ScanStartArmsTheScanner
  refine fun a b s => ⟨decodeCmd_cmdWord b a 0x6#4, fun hs => ?_, fun h0 h1 h2 => ?_⟩
  · exact exec_scanStart_busy a b (scanning_of_eq hs)
  · exact ⟨_, exec_scanStart a b (not_scanning_of_ne h0 h1 h2), rfl, rfl, matchFlag_of_ne_done (by simp),
      onDone_of_ne_done (by simp) _⟩

/-- Settles O21: in S0 and in S1 the decode table tells one byte from all others. -/
theorem seekingRowsTakeOneByte : Obligations.SeekingRowsTakeOneByte := by
  unfold Obligations.SeekingRowsTakeOneByte
  refine fun s byte later hp => ⟨?_, fun hs hb => ?_, ?_, fun hs hb => ?_⟩
  · rintro hs rfl
    exact ⟨(decodeRx_s0 hs _).trans (if_pos rfl), exec_rxS0Start hp hs⟩
  · exact ⟨(decodeRx_s0 hs byte).trans (if_neg hb), exec_rxS0Discard hp hs hb⟩
  · rintro hs rfl
    exact ⟨(decodeRx_s1 hs _).trans (if_pos rfl), exec_rxS1Tag hp hs⟩
  · exact ⟨(decodeRx_s1 hs byte).trans (if_neg hb), exec_rxS1Discard hp hs hb⟩

/-- Settles O22: in S2 the byte and PLEN choose the row, and the appended byte is one write of PBUF. -/
theorem payloadRowsTakeOneByte : Obligations.PayloadRowsTakeOneByte := by
  unfold Obligations.PayloadRowsTakeOneByte
  intro s byte later hp hs
  rw [decodeRx_s2 hs]
  refine ⟨?_, ?_, fun hb hl => ⟨?_, fun hw => ?_⟩, fun hb hl => ⟨?_, ?_⟩⟩
  · rintro rfl hl
    exact ⟨(if_pos rfl).trans (if_pos hl), _, exec_rxS2End hp hs hl, rfl, rfl, matchFlag_of_done rfl⟩
  · rintro rfl hl
    exact ⟨(if_pos rfl).trans (if_neg hl.not_ge), _, exec_rxS2EndShort hp hs hl, rfl, rfl,
      matchFlag_of_ne_done (by simp), onDone_of_ne_done (by simp) _⟩
  · exact (if_neg hb).trans (if_pos hl)
  · exact ⟨_, exec_rxS2Append hp hs hb hl, rfl, Memory.read_write_same hw s.plen byte,
      fun i hi => Memory.read_write_other hi.symm s.pbuf byte⟩
  · exact (if_neg hb).trans (if_neg hl.not_lt)
  · exact ⟨_, exec_rxS2Overflow hp hs hb hl.ge, rfl, rfl⟩

/-- Settles O23: outside a scan the decode table has one row, which changes nothing. -/
theorem bytesOutsideAScanStayPending : Obligations.BytesOutsideAScanStayPending := by
  unfold Obligations.BytesOutsideAScanStayPending
  exact fun s byte later hp hs => ⟨decodeRx_not_scanning hs byte, exec_rxNotAccepted hp hs⟩

/-- Settles O24: the two cases of RX_ERR, by whether a scan is in progress. -/
theorem readErrorAbortsAScan : Obligations.ReadErrorAbortsAScan := by
  unfold Obligations.ReadErrorAbortsAScan
  refine fun s => ⟨fun hs => ?_, fun h0 h1 h2 => ?_⟩
  · exact ⟨_, exec_rxErr_scanning (scanning_of_eq hs), rfl, rfl, rfl, onDone_of_ne_done (by simp) _⟩
  · exact exec_rxErr_not_scanning (not_scanning_of_ne h0 h1 h2)

/-- Settles O27: an offer of no byte presents nothing, and neither does a missing event. -/
theorem scannerWaitsWithoutAByte : Obligations.ScannerWaitsWithoutAByte := by
  unfold Obligations.ScannerWaitsWithoutAByte
  exact fun s => ⟨fun rest hi hp => step_waits (nextSignal_offer_nil hi hp), step_none⟩

end Sys2Proof.Machine

/-! What lasts while no scan is in progress: the scanner's elements, and with them the result port. -/

namespace Sys2Proof.Machine

section
variable {i : Instr} {s t : State} (hs : scanning s.sst = false) (harm : ∀ a b, i ≠ .scanStart a b)
  (hreset : ∀ waiting, i ≠ .reset waiting)
include hs harm hreset

/-- Outside a scan every shape but arming and reset keeps the scanner's elements, with at most more bytes pending. -/
theorem Shape.keeps_scanner (h : Shape i s t) : ∃ bytes, t = t.withScannerOf (arrive bytes s) := by
  have hnil : arrive [] s = s := by simp [arrive]
  cases h with
  | arm a b hi => exact absurd hi (harm a b)
  | reset waiting hi => exact absurd hi (hreset waiting)
  | abort h => simp [hs] at h
  | offer h =>
    obtain rfl := h.eq_of_not_scanning hs
    exact ⟨[], by rw [hnil]; rfl⟩
  | deliver bytes h => exact ⟨bytes, by rw [h.eq_of_not_scanning hs]; rfl⟩
  | _ => exact ⟨[], by rw [hnil]; rfl⟩

/-- Outside a scan every row but SCAN_START and RESET keeps the scanner's elements (R161). -/
theorem exec_keeps_scanner (h : exec i s = .next t) : ∃ bytes, t = t.withScannerOf (arrive bytes s) :=
  (exec_shape h).keeps_scanner hs harm hreset

end

/-- A terminal state is not scanning (R21). -/
theorem not_scanning_of_terminal {sst : Sst} (h : sst = .done ∨ sst = .abort ∨ sst = .short ∨ sst = .ovf) :
    scanning sst = false := by
  obtain rfl | rfl | rfl | rfl := h <;> rfl

/-- Settles O28: a terminal state is not scanning, so the row keeps the scanner's elements. -/
theorem terminalStatesLastUntilScanStartOrReset : Obligations.TerminalStatesLastUntilScanStartOrReset := by
  unfold Obligations.TerminalStatesLastUntilScanStartOrReset
  intro i s t hterm harm hreset h
  have hs := not_scanning_of_terminal hterm
  have hrxErr : i = .rxErr → t = s := by
    rintro rfl
    rw [exec_rxErr_not_scanning hs] at h
    cases h
    rfl
  obtain ⟨bytes, ht⟩ := exec_keeps_scanner hs harm hreset h
  refine ⟨?_, ?_, fun k => ?_, ⟨bytes, (congrArg State.pending ht).symm⟩, hrxErr⟩
  · rw [ht]; rfl
  · rw [ht]; rfl
  · rw [ht]; rfl

/-- DCOUNT is half of what the payload has behind its four field units (R164). -/
theorem dcount_eq (s : State) : dcount s = (s.plen - 4) / 2 := Nat.shiftRight_eq_div_pow _ 1

theorem readReplyData_of_ne_done {s : State} (hd : s.sst ≠ .done) (k : Nat) :
    readReplyData s k = .error .resultNotDone := by
  rw [readReplyData, if_neg (fun h => hd h.1), onDone_of_ne_done hd]

/-- In DONE a data byte at or above DCOUNT is refused (R165, R167). -/
theorem readReplyData_of_ge {s : State} {k : Nat} (hd : s.sst = .done) (hk : dcount s ≤ k) :
    readReplyData s k = .error .dataIndexOutOfRange := if_pos ⟨hd, hk⟩

/-- Settles O29: the port's value in DONE is a function of the scanner's elements, which the rows keep. -/
theorem resultPortMeaning : Obligations.ResultPortMeaning := by
  unfold Obligations.ResultPortMeaning
  refine ⟨fun s hd => ?_, fun s hd => ?_, fun i s t hd harm hreset h => ?_⟩
  · exact ⟨onDone_of_ne_done hd _, onDone_of_ne_done hd _, onDone_of_ne_done hd _, readReplyData_of_ne_done hd⟩
  · simp only [← dcount_eq]
    exact ⟨onDone_of_done hd _, onDone_of_done hd _, onDone_of_done hd _, fun k => readReplyData_of_lt hd,
      fun k => readReplyData_of_ge hd⟩
  · obtain ⟨bytes, ht⟩ := exec_keeps_scanner (by rw [hd]; rfl) harm hreset h
    rw [ht]
    exact ⟨rfl, rfl, rfl, fun k => rfl⟩

/-- With a framer a completing FRAME_READ records its address and keeps SST and PBUF, accepted or failed (R125, R128). -/
theorem exec_frameRead_next {a b : Byte} {s t : State} (hf : s.params.framer = true)
    (h : exec (.frameRead a b) s = .next t) : t.taddr = a ∧ t.sst = s.sst ∧ t.pbuf = s.pbuf := by
  rw [exec_frameCommand_on ⟨a, b, .inr (.inr rfl)⟩ hf] at h
  obtain ⟨later, -, rfl⟩ | ⟨taken, later, -, rfl⟩ := emitFrame_next h
  · exact ⟨rfl, rfl, rfl⟩
  · exact ⟨rfl, rfl, rfl⟩

/-- Settles O31: MATCH reads TADDR, which FRAME_READ has set, and the reply, which it has kept. -/
theorem matchFollowsTheTargetAddress : Obligations.MatchFollowsTheTargetAddress := by
  unfold Obligations.MatchFollowsTheTargetAddress
  refine ⟨matchFlag_iff, fun a b s t hf hd h => ?_⟩
  obtain ⟨htaddr, hsst, hpbuf⟩ := exec_frameRead_next hf h
  rw [matchFlag_iff, hsst, htaddr, replyAddr, hpbuf]
  exact and_iff_right hd

end Sys2Proof.Machine

/-! A scan that passes over garbage before the reply's tag. -/

namespace Sys2Proof.Machine

theorem ScanRun.trans {n m : Nat} {s t u : State} (h : ScanRun n s t) (h' : ScanRun m t u) : ScanRun (n + m) s u := by
  induction h with
  | refl => rwa [Nat.zero_add]
  | head hd hstep _ ih =>
    rw [Nat.add_right_comm]
    exact .head hd hstep (ih h')

theorem step_s1_discard {s : State} {byte : Byte} {later : List Byte} {rest : List Event} (hs : s.sst = .s1)
    (hi : s.inputs = .offer :: rest) (hp : s.pending = byte :: later) (hb : byte ≠ i2cReply) :
    step s = .next { s with pending := later, inputs := rest } := by
  rw [step_offer_cons hi hp, decodeRx_s1 hs, if_neg hb]
  exact exec_rxS1Discard hp hs hb

/-- In S1 the bytes before the first reply tag are discarded, markers among them too, and the tag leads to S2
(R154, R155). -/
theorem scanRun_seek_tag (skipped : List Byte) {s : State} {later : List Byte} {rest : List Event} (hs : s.sst = .s1)
    (htag : i2cReply ∉ skipped) (hp : s.pending = skipped ++ i2cReply :: later)
    (hi : s.inputs = List.replicate (skipped.length + 1) Event.offer ++ rest) :
    ScanRun (skipped.length + 1) s { s with sst := .s2, pending := later, inputs := rest } := by
  have hd : doneLvl s = false := doneLvl_of_scanning (by rw [hs]; rfl)
  induction skipped generalizing s with
  | nil => exact .head hd (step_s1_tag hs hi hp) (.refl _)
  | cons byte more ih =>
    rw [List.mem_cons, not_or] at htag
    exact .head hd (step_s1_discard hs hi hp (Ne.symm htag.1)) (ih hs htag.2 rfl rfl hd)

/-- A stray start marker and bytes before the reply's tag do not keep a frame's payload out of PBUF (R169): the bytes
are discarded in S1, and so is the frame's own start marker when it is among them. -/
theorem scanRun_stray (skipped bytes : List Byte) {s : State} {later : List Byte} {rest : List Event} (hs : s.sst = .s0)
    (h0 : s.plen = 0) (htag : i2cReply ∉ skipped) (hend : endMarker ∉ bytes) (hlong : 4 ≤ bytes.length)
    (hfit : bytes.length ≤ s.params.payloadMax)
    (hp : s.pending = startMarker :: (skipped ++ i2cReply :: (bytes ++ endMarker :: later)))
    (hi : s.inputs = List.replicate (skipped.length + 1 + (bytes.length + 1) + 1) Event.offer ++ rest) :
    ScanRun (skipped.length + 1 + (bytes.length + 1) + 1) s
      { s with sst := .done, plen := bytes.length, pbuf := s.pbuf.writeFrom 0 bytes, pending := later, inputs := rest } := by
  have hd : doneLvl s = false := doneLvl_of_scanning (by rw [hs]; rfl)
  have payload := scanRun_payload bytes
    (s := { s with sst := .s2, plen := 0, pending := bytes ++ endMarker :: later,
                   inputs := List.replicate (bytes.length + 1) Event.offer ++ rest })
    rfl hend (by simpa) (by simpa) rfl rfl
  rw [List.replicate_succ, List.replicate_add, List.cons_append, List.append_assoc] at hi
  refine .head hd (step_s0_start hs hi hp) ((scanRun_seek_tag skipped rfl htag rfl rfl).trans ?_)
  simpa [h0] using payload

/-- Settles O46: the garbage and the frame's start marker are discarded in S1, and the tag and the payload follow. -/
theorem scanRecoversFromDesync : Obligations.ScanRecoversFromDesync := by
  unfold Obligations.ScanRecoversFromDesync
  intro s garbage data later rest hs h0 hw htag hend hlong hfit hp hi
  have hskipped : i2cReply ∉ garbage ++ [startMarker] := by
    rw [List.mem_append, not_or]
    exact ⟨htag, by decide⟩
  have hlen : garbage.length + data.length + 4 = (garbage ++ [startMarker]).length + 1 + (data.length + 1) + 1 := by
    simp only [List.length_append, List.length_singleton]
    omega
  rw [hlen] at hi ⊢
  have hrun := scanRun_stray (garbage ++ [startMarker]) data hs h0 hskipped hend hlong hfit
    (by rw [List.append_assoc]; exact hp) hi
  refine ⟨_, hrun.runSteps, rfl, fun k hk => ?_⟩
  have hread := Memory.read_writeFrom hw 0 data hk
  rwa [Nat.zero_add] at hread

end Sys2Proof.Machine

/-! The completion code that a command records, by its row. -/

namespace Sys2Proof.Machine

/-- The code a frame write records once the transport has answered it (R120). -/
def answerCode : List TxAnswer → CErr
  | .error _ :: _ => .txErr
  | _ => .ok

/-- The code a command that completes in this state records (R201, R203). -/
def recordedCode (s : State) : Instr → CErr
  | .scanStart _ _ => if scanning s.sst then .busy else .ok
  | .outClear _ _ => if s.params.framer then .ok else .illegal
  | .outPush _ _ => if s.params.framer then (if s.params.outMax ≤ s.olen then .outOvf else .ok) else .illegal
  | .frameConfig _ _ | .frameWrite _ _ | .frameRead _ _ =>
    if s.params.framer then answerCode s.txAnswers else .illegal
  | .reservedOp9 _ _ | .reservedOpA _ _ | .reservedOpB _ _ | .reservedOpC _ _ | .reservedOpD _ _ | .reservedOpE _ _
  | .reservedOpF _ _ | .reservedRsv _ _ _ _ => .illegal
  | _ => .ok

/-- A frame write records OK or TX_ERR (R120). -/
theorem answerCode_cases (answers : List TxAnswer) :
    (answerCode answers = .ok ∧ ¬ ∃ taken later, answers = .error taken :: later) ∨
    (answerCode answers = .txErr ∧ ∃ taken later, answers = .error taken :: later) := by
  match answers with
  | [] | .accept :: _ => exact .inl ⟨rfl, by simp⟩
  | .error taken :: later => exact .inr ⟨rfl, taken, later, rfl⟩

theorem emitFrame_cerr {bytes : List Byte} {s t : State} (h : emitFrame bytes s = .next t) :
    t.cerr = answerCode s.txAnswers := by
  obtain ⟨later, ha, rfl⟩ | ⟨taken, later, ha, rfl⟩ := emitFrame_next h
  · rw [ha]; rfl
  · rw [ha]; rfl

/-- Without a framer a framer step records ILLEGAL (the opening of 41_framer.md). -/
theorem withFramer_cerr {s t : State} {run : Host.Outcome State Fault Refusal} {code : CErr}
    (h : withFramer s run = .next t) (hrun : run = .next t → t.cerr = code) :
    t.cerr = if s.params.framer then code else .illegal := by
  cases hf : s.params.framer with
  | true => exact hrun ((withFramer_on hf run).symm.trans h)
  | false =>
    rw [withFramer_off hf] at h
    cases h
    rfl

/-- A command that completes records its code (R203). -/
theorem exec_cerr {i : Instr} (hi : isCommand i) {s t : State} (h : exec i s = .next t) :
    t.cerr = recordedCode s i := by
  obtain ⟨w, hw⟩ := hi
  cases i with
  | nop | pack | unpack | reservedOp9 | reservedOpA | reservedOpB | reservedOpC | reservedOpD | reservedOpE
  | reservedOpF | reservedRsv => cases h; rfl
  | scanStart a b =>
    cases hs : scanning s.sst with
    | true =>
      rw [exec_scanStart_busy a b hs] at h
      cases h
      simp [recordedCode, hs]
    | false =>
      rw [exec_scanStart a b hs] at h
      cases h
      simp [recordedCode, hs]
  | outClear => exact withFramer_cerr h fun hrun => by cases hrun; rfl
  | outPush a b =>
    refine withFramer_cerr h fun hrun => ?_
    split at hrun
    · cases hrun
      exact (if_neg (Nat.not_le.mpr ‹_›)).symm
    · cases hrun
      exact (if_pos (Nat.not_lt.mp ‹_›)).symm
  | frameConfig | frameWrite | frameRead => exact withFramer_cerr h emitFrame_cerr
  | frameI2cConfig | frameReqWrite | frameReqRead | frameReply | frameReportFirmware | rxS0Start | rxS0Discard
  | rxS1Tag | rxS1Discard | rxS2End | rxS2EndShort | rxS2Append | rxS2Overflow | rxNotAccepted | rxErr | reset =>
    cases hw

/-- Settles O35: the recorded code is compared with each cause, row by row. -/
theorem completionCodesSayTheirCause : Obligations.CompletionCodesSayTheirCause := by
  unfold Obligations.CompletionCodesSayTheirCause
  intro i s t hi h
  rw [exec_cerr hi h]
  cases i with
  | scanStart => cases hs : scanning s.sst <;> simp [recordedCode, isFrameCommand, hs]
  | outClear => cases hf : s.params.framer <;> simp [recordedCode, isFrameCommand, hf]
  | outPush =>
    cases hf : s.params.framer
    · simp [recordedCode, isFrameCommand, hf]
    · by_cases hl : s.params.outMax ≤ s.olen <;> simp [recordedCode, isFrameCommand, hf, hl]
  | frameConfig | frameWrite | frameRead =>
    cases hf : s.params.framer
    · simp [recordedCode, isFrameCommand, hf]
    · obtain ⟨hcode, ha⟩ | ⟨hcode, ha⟩ := answerCode_cases s.txAnswers <;>
        simp [recordedCode, isFrameCommand, hf, hcode, ha]
  | _ => simp [recordedCode, isFrameCommand]

end Sys2Proof.Machine

/-! The host's side of a transaction: its commands when the transport fails one, and its verdict on the scan. -/

namespace Sys2Proof.Machine

/-- Settles O48: the state that the issued commands lead to has each of the elements. -/
theorem transactSendsBothRequestFrames : Obligations.TransactSendsBothRequestFrames := by
  unfold Obligations.TransactSendsBothRequestFrames
  refine fun s addr later hf hs => ⟨fun out hw hfit ha => ?_, rfl, fun ha => ?_⟩
  · exact ⟨_, issue_transact_some addr out hf hs hw hfit ha, (List.append_assoc ..).symm, outgoing_loaded hw out,
      rfl, rfl, rfl, rfl, rfl, rfl, rfl, rfl⟩
  · exact ⟨_, issue_transact_none addr hf hs ha, rfl, rfl, rfl, rfl, rfl, rfl, rfl, rfl, rfl, rfl, rfl⟩

section
variable {s : State} {out : List Byte} {later : List TxAnswer} {taken : Nat}

theorem exec_frameWrite_error (a b : Byte) (ho : outgoing s = out) (hf : s.params.framer = true)
    (ha : s.txAnswers = .error taken :: later) :
    exec (.frameWrite a b) s = .next { s with
      sent := s.sent ++ (requestFrame writeMode a out).take taken, cerr := .txErr, txAnswers := later } := by
  subst ho
  exact (withFramer_on hf _).trans (emitFrame_error ha)

/-- A failed FRAME_READ has recorded its address (R125). -/
theorem exec_frameRead_error (a b : Byte) (ho : outgoing s = out) (hf : s.params.framer = true)
    (ha : s.txAnswers = .error taken :: later) :
    exec (.frameRead a b) s = .next { s with
      sent := s.sent ++ (requestFrame readMode a out).take taken, taddr := a, cerr := .txErr, txAnswers := later } := by
  subst ho
  exact (withFramer_on hf _).trans (emitFrame_error (s := { s with taddr := a }) ha)

/-- The host issues nothing after a command that ended with TX_ERR (R213, R214). -/
theorem issue_txErr {i : Instr} {rest : List Instr} {t : State} (h : exec i s = .next t) (hc : t.cerr = .txErr) :
    issue (i :: rest) s = .next t := by
  simp [issue, h, hc]

/-- A transaction with outgoing bytes loads them and sends the write request before its read phase (R213, R214). -/
theorem transactCommands_some (addr : Byte) (bytes : List Byte) (wanted : Bool) :
    transactCommands addr (some bytes) wanted =
      outLoad bytes ++ .frameWrite addr 0#8 :: readPhase addr (some bytes) wanted := by
  simp [transactCommands, writePhase, i2cWrite]

section
variable (addr : Byte) (bytes : List Byte) (wanted : Bool) (hf : s.params.framer = true) (hw : s.obuf.wf = true)
  (hfit : bytes.length ≤ s.params.outMax)
include hf hw hfit

/-- When the transport fails the write request, the read phase is not issued (R213). -/
theorem issue_transact_write_error (ha : s.txAnswers = .error taken :: later) :
    issue (transactCommands addr (some bytes) wanted) s = .next { s with
      obuf := s.obuf.writeFrom 0 bytes, olen := bytes.length,
      sent := s.sent ++ (requestFrame writeMode addr bytes).take taken, cerr := .txErr, txAnswers := later } := by
  rw [transactCommands_some, issue_outLoad bytes _ hf hfit]
  exact issue_txErr (exec_frameWrite_error addr 0#8 (outgoing_loaded hw bytes) hf ha) rfl

/-- When the transport accepts the write request, the read phase follows, with OBUF still loaded (R213, R214). -/
theorem issue_transact_write_accept (ha : s.txAnswers = .accept :: later) :
    issue (transactCommands addr (some bytes) wanted) s = issue (readPhase addr (some bytes) wanted) { s with
      obuf := s.obuf.writeFrom 0 bytes, olen := bytes.length,
      sent := s.sent ++ requestFrame writeMode addr bytes, cerr := .ok, txAnswers := later } := by
  rw [transactCommands_some, issue_outLoad bytes _ hf hfit]
  exact issue_cons (exec_frameWrite_accept addr 0#8 (outgoing_loaded hw bytes) hf ha) (by simp)

/-- When the transport then fails the read request, no scan is started (R214). -/
theorem issue_transact_read_error (ha : s.txAnswers = .accept :: .error taken :: later) :
    issue (transactCommands addr (some bytes) true) s = .next { s with
      obuf := s.obuf.writeFrom 0 bytes, olen := bytes.length,
      sent := s.sent ++ requestFrame writeMode addr bytes ++ (requestFrame readMode addr bytes).take taken,
      taddr := addr, cerr := .txErr, txAnswers := later } := by
  rw [issue_transact_write_accept addr bytes true hf hw hfit ha]
  exact issue_txErr (exec_frameRead_error addr 0#8 (outgoing_loaded hw bytes) hf rfl) rfl

end

/-- Without outgoing bytes a failed read request starts no scan either (R214). -/
theorem issue_transact_none_error (addr : Byte) (hf : s.params.framer = true) (ha : s.txAnswers = .error taken :: later) :
    issue (transactCommands addr none true) s = .next { s with
      olen := 0, sent := s.sent ++ (requestFrame readMode addr []).take taken, taddr := addr, cerr := .txErr,
      txAnswers := later } :=
  (issue_cons (exec_outClear 0#8 0#8 hf) (by simp)).trans (issue_txErr (exec_frameRead_error addr 0#8 rfl hf ha) rfl)

end

section
variable {addr : Byte} {out : Option (List Byte)} {wanted : Bool} {s t : State}

/-- A transaction with a phase to perform ends as its commands and the wait after them do (R213, R214). -/
theorem transact_of_issue (hphase : ¬ (out = none ∧ wanted = false))
    (h : issue (transactCommands addr out wanted) s = .next t) (policy : MismatchPolicy) (n : Nat) :
    transact policy addr out wanted n s = afterCommands policy wanted n t := by
  rw [transact, if_neg hphase, h]

/-- A frame command's TX_ERR fails the transaction (R213, R214). -/
theorem afterCommands_txErr (hc : t.cerr = .txErr) (policy : MismatchPolicy) (wanted : Bool) (n : Nat) :
    afterCommands policy wanted n t = .ended .transportError t := if_pos hc

/-- A write phase alone has succeeded when its commands have (R213). -/
theorem afterCommands_write_only (hc : t.cerr ≠ .txErr) (policy : MismatchPolicy) (n : Nat) :
    afterCommands policy false n t = .ended .success t := if_neg hc

end

/-- Settles O52: the commands stop at the failed frame command, and its TX_ERR is the outcome. -/
theorem transactFailsOnAWriteError : Obligations.TransactFailsOnAWriteError := by
  unfold Obligations.TransactFailsOnAWriteError
  refine fun policy s addr n taken later hf =>
    ⟨fun out hw hfit => ⟨fun wanted ha => ?_, fun ha => ?_, fun ha => ?_⟩, fun ha => ?_⟩
  · have hissue := issue_transact_write_error addr out wanted hf hw hfit ha
    exact ⟨_, (transact_of_issue (by simp) hissue policy n).trans (afterCommands_txErr rfl policy wanted n),
      rfl, rfl, rfl, rfl, rfl, rfl, rfl⟩
  · have hissue := issue_transact_read_error addr out hf hw hfit ha
    exact ⟨_, (transact_of_issue (by simp) hissue policy n).trans (afterCommands_txErr rfl policy true n),
      rfl, rfl, rfl, rfl, rfl, rfl, rfl⟩
  · have hissue := issue_transact_write_accept addr out false hf hw hfit ha
    exact ⟨_, (transact_of_issue (by simp) hissue policy n).trans (afterCommands_write_only (by simp) policy n),
      rfl, rfl, rfl, outgoing_loaded hw out⟩
  · have hissue := issue_transact_none_error addr hf ha
    exact ⟨_, (transact_of_issue (by simp) hissue policy n).trans (afterCommands_txErr rfl policy true n),
      rfl, rfl, rfl, rfl, rfl, rfl, rfl, rfl⟩

/-- A read error during the scan is a transport error for the host (R214). -/
theorem verdict_abort {policy : MismatchPolicy} {s : State} (h : s.sst = .abort) :
    verdict policy s = .transportError := by simp [verdict, h]

/-- A scan that ended without a whole payload is a malformed reply (R214). -/
theorem verdict_malformed {policy : MismatchPolicy} {s : State} (h : s.sst = .short ∨ s.sst = .ovf) :
    verdict policy s = .malformedReply := by
  obtain h | h := h
  · simp [verdict, h]
  · simp [verdict, h]

@[simp] theorem replyBytes_length (s : State) : (replyBytes s).length = dcount s := by simp [replyBytes]

theorem replyBytes_getElem? {s : State} {k : Nat} (h : k < dcount s) : (replyBytes s)[k]? = some (replyData s k) := by
  simp [replyBytes, h]

/-- Settles O49: the verdict by the case of SST and MATCH, and the transaction that issues nothing. -/
theorem hostVerdictFollowsTheScan : Obligations.HostVerdictFollowsTheScan := by
  unfold Obligations.HostVerdictFollowsTheScan
  refine ⟨fun policy s => ⟨(verdict_eq_waiting_iff policy s).mpr, verdict_abort, verdict_malformed, fun hm => ?_,
    fun hd hm => ?_⟩, fun policy addr n s => ⟨rfl, if_pos ⟨rfl, rfl⟩, rfl⟩⟩
  · exact ⟨replyBytes s, verdict_match hm, replyBytes_length s, fun k => replyBytes_getElem?⟩
  · rw [verdict_mismatch hd hm]
    refine ⟨?_, ?_, ?_⟩ <;> (rintro rfl; rfl)

end Sys2Proof.Machine

/-! The reset event: what it leaves of the block, and what has left of the frame that it interrupts. -/

namespace Sys2Proof.Machine

/-- RESET completes in every state, whatever it finds waiting (R205(a), R240). -/
theorem exec_reset (waiting : Option (CmdWord × Nat)) (s : State) :
    exec (.reset waiting) s = .next { resetBlock s with sent := s.sent ++ abandonedPrefix waiting s } := rfl

@[simp] theorem abandonedPrefix_none (s : State) : abandonedPrefix none s = [] := rfl

@[simp] theorem abandonedPrefix_some (w : CmdWord) (taken : Nat) (s : State) :
    abandonedPrefix (some (w, taken)) s = (commandFrame (decodeCmd w) s).take taken := rfl

/-- Every field of STATUS is 0 in IDLE with CERR = OK, whatever TADDR and PBUF hold (R29, R33). -/
theorem readStatus_of_idle_ok {s : State} (hs : s.sst = .idle) (hc : s.cerr = .ok) : readStatus s = 0x0000#16 := by
  have hm : matchFlag s = false := matchFlag_of_ne_done (by simp [hs])
  have hd : doneLvl s = false := by simp [doneLvl, hs, sstCode]
  simp [readStatus, status, hm, hd, hs, hc, sstCode, cerrCode]

/-- Settles O4: the number of bytes that had left is the prefix's length. -/
theorem resetAdmitsEveryPrefixOfAWaitingFrame : Obligations.ResetAdmitsEveryPrefixOfAWaitingFrame := by
  unfold Obligations.ResetAdmitsEveryPrefixOfAWaitingFrame
  intro s w front _ _ hfront
  refine ⟨front.length, _, exec_reset _ s, ?_⟩
  rw [abandonedPrefix_some, ← List.prefix_iff_eq_take.mp hfront]

/-- Settles O3: the block's elements are those of `resetBlock`, whose scanner is IDLE and so accepts no byte. -/
theorem resetEventSetsEveryElement : Obligations.ResetEventSetsEveryElement := by
  unfold Obligations.ResetEventSetsEveryElement
  intro waiting s
  refine ⟨_, exec_reset waiting s, rfl, rfl, rfl, rfl, rfl, rfl, readStatus_of_idle_ok rfl rfl, rfl, rfl, rfl, rfl,
    ?_, ?_, ?_⟩
  · rintro rfl
    simp
  · rintro w taken rfl
    simp
  · exact fun byte _ _ => decodeRx_not_scanning rfl byte

end Sys2Proof.Machine

/-! The reset state meets the machine's invariant. -/

namespace Sys2Proof.Machine

/-- The parameters of the reset state are within the spec's bounds (R6, R7, log entry 1). -/
theorem State.reset_params_legal : State.reset.params.Legal := by decide

/-- Settles O2: a reset changes no more of State.reset than the buffers and the count of draws, and State.reset's own
buffers, which list no cell, are canonical and lie below every capacity. -/
theorem invariantHoldsAtReset : Obligations.InvariantHoldsAtReset := by
  unfold Obligations.InvariantHoldsAtReset
  exact { resetBlock_inv State.reset_params_legal with
    pbuf_wf := rfl
    obuf_wf := rfl
    pbuf_below := rfl
    obuf_below := rfl }

end Sys2Proof.Machine
